-- ==== Sys2Proof/Word.lean ====
section
/-! DEFINITION. Word.lean: the two widths the spec treats as bits (00_scope.md R8): the 32-bit
register and command word (10_state.md R30, 30_encoding.md R90) and the 256-bit DATA buffer
(10_state.md R25). Field elements are integers (00_scope.md R9), not bit vectors. -/

namespace Sys2Proof

/-- A register of the window, and a command word: 32 bits (10_state.md R30, 30_encoding.md R90). -/
abbrev Word := BitVec 32

/-- The content of DATA, read as the little-endian integer of its 32 bytes (10_state.md R25). -/
abbrev Buffer := BitVec 256

/-- One byte. -/
abbrev Byte := BitVec 8

end Sys2Proof
end

