-- ==== Sys2Proof/Machine/FieldArith.lean ====
section
/-! DEFINITION. Machine/FieldArith.lean: arithmetic in GF(p) on integers (00_scope.md R9), the curve
constants (R14), and the root of a ratio that FSQRTR and PDEC share (40_field.md R114). -/

namespace Sys2Proof.Machine

/-- p, the field prime (00_scope.md R7). -/
def prime : Nat := 2 ^ 255 - 19

/-! ## The primitives of R9 -/

/-- fadd(a, b) = (a + b) mod p. -/
def fadd (a b : Nat) : Nat := (a + b) % prime

/-- fsub(a, b) = (a - b) mod p, the mathematical modulus. -/
def fsub (a b : Nat) : Nat := (((a : Int) - (b : Int)) % (prime : Int)).toNat

/-- fneg(a) = (-a) mod p. -/
def fneg (a : Nat) : Nat := ((-(a : Int)) % (prime : Int)).toNat

/-- fmul(a, b) = (a * b) mod p. -/
def fmul (a b : Nat) : Nat := a * b % prime

/-- fsq(a) = a^2 mod p. -/
def fsq (a : Nat) : Nat := a ^ 2 % prime

/-- `acc * b ^ e mod p` by squaring, over the low `fuel` bits of `e`. -/
def powLoop : (fuel b e acc : Nat) → Nat
  | 0, _, _, acc => acc
  | fuel + 1, b, e, acc =>
      powLoop fuel (b * b % prime) (e / 2) (if e % 2 = 1 then acc * b % prime else acc)

/-- fpow(a, e) = a^e mod p for e < 2^256; only the power is specified, not the chain that computes
it (40_field.md R113). Laws/FieldArith.lean proves that this is the power. -/
def fpow (a e : Nat) : Nat := powLoop 256 a e 1

/-- a^(p - 2) mod p: the inverse of a, and 0 for 0 (40_field.md R111). -/
def finv (a : Nat) : Nat := fpow a (prime - 2)

/-- a^((p - 5)/8) mod p (40_field.md R112). -/
def fpow22523 (a : Nat) : Nat := fpow a ((prime - 5) / 8)

/-- isneg(a): bit 0 of the canonical value. -/
def isneg (a : Nat) : Bool := a % 2 == 1

/-! ## Constants (R14) -/

/-- d = -121665/121666 mod p. -/
def constD : Nat := 37095705934669439343138083508754565189542113879843219016388785533085940283555

/-- D2 = 2 d mod p. -/
def constD2 : Nat := 16295367250680780974490674513165176452449235426866156013048779062215315747161

/-- SQRTM1 = 2^((p - 1)/4) mod p, an even square root of -1. -/
def constSqrtM1 : Nat :=
  19681161376707505956807079304988542015446066515923890162744021073123829784752

/-- B.x, the abscissa of the base point. -/
def baseX : Nat := 15112221349535400772501151409588531511454012693041857206046113283949847762202

/-- B.y = 4/5 mod p, the ordinate of the base point. -/
def baseY : Nat := 46316835694926478169428394003475163141307993866256225615783033603165251855960

/-! ## The square root of a ratio (40_field.md R114) -/

/-- A root x with v x^2 = u, by u v^3 (u v^7)^((p-5)/8), corrected by SQRTM1 when v x^2 = -u; none
when neither candidate satisfies the equation. -/
def sqrtRatio (u v : Nat) : Option Nat :=
  let v3 := fmul (fsq v) v
  let x := fmul (fmul (fsq v3) v) u
  let x := fpow22523 x
  let x := fmul (fmul x v3) u
  let vxx := fmul v (fsq x)
  if vxx = u then some x
  else if vxx = fneg u then some (fmul x constSqrtM1)
  else none

end Sys2Proof.Machine
end

