-- ==== Sys2Proof/Config.lean ====
section
/-! DEFINITION. Config.lean: the parameters the spec leaves OPEN (92_eei_decisions.md, last table)
and the one free value it leaves unspecified (93_implementation_defined.md U1). None has a body:
a claim about the model holds whatever they are. -/

namespace Sys2Proof

/-- CORE_BASE in units of 0x40 (20_memory.md R51, U11). Log 4. -/
opaque Config.coreBaseUnit : Nat

/-- CORE_BASE, the host physical address of window offset 0x00; a multiple of 0x40 as
20_memory.md R51 requires. Log 4. -/
def Config.coreBase : Nat := 0x40 * Config.coreBaseUnit

/-- CORE_IRQ, the host interrupt input that IRQ drives (60_exceptions.md R221, U12). Log 14. -/
opaque Config.coreIrq : Nat

/-- The priority of that input among the host's sources (60_exceptions.md R221). Log 14. -/
opaque Config.coreIrqPriority : Nat

/-- Whether the host masks that input (60_exceptions.md R221). Log 14. -/
opaque Config.coreIrqMasked : Bool

/-- What a read of DATAk returns while BUSY = 1: any value, drawn anew for each such read
(10_state.md R35, 70_reset_and_hazards.md R246, U1). The argument numbers the draw. Log 3. -/
opaque Config.freeDataRead : Nat → Word

end Sys2Proof
end

