-- ==== Sys2Proof/Syntax.lean ====
section
/-! DEFINITION. Syntax.lean: the commands of C25519-CORE, one constructor of Instr per row of
30_encoding.md R87 (spec/opcode_table.json), with operands already taken out of their fields. -/

namespace Sys2Proof

/-- A field register f0..f15: all 16 indices are legal (30_encoding.md R83). -/
abbrev FReg := Fin 16

/-- A point register p0..p7: the legal indices are 0..7 (30_encoding.md R85). -/
abbrev PReg := Fin 8

/-- The form tag of a point register (10_state.md R23). -/
inductive Form where
  | NONE | P2 | P3 | P1P1 | PRECOMP | CACHED
deriving DecidableEq, Repr

/-- A component c0..c3 of a point register (41_group.md R161). -/
inductive Component where
  | c0 | c1 | c2 | c3
deriving DecidableEq, Repr

/-- The constant FCONST selects (40_field.md R104). -/
inductive CurveConst where
  | d | d2 | sqrtm1
deriving DecidableEq, Repr

/-- The mode of PDEC: the encoded point, or its negation (41_group.md R155). -/
inductive DecodeMode where
  | plain | negated
deriving DecidableEq, Repr

/-- A command (30_encoding.md R87, in the order of the table). Operand names: `fd fa fb` field
registers, `pd pa pb` point registers, destination first (00_scope.md R13). -/
inductive Instr where
  | nop
  | fzero (fd : FReg)
  | fone (fd : FReg)
  | fmov (fd fa : FReg)
  | fconst (fd : FReg) (k : CurveConst)
  | fadd (fd fa fb : FReg)
  | fsub (fd fa fb : FReg)
  | fneg (fd fa : FReg)
  | fmul (fd fa fb : FReg)
  | fsq (fd fa : FReg)
  | fsq2 (fd fa : FReg)
  | finv (fd fa : FReg)
  | fpow22523 (fd fa : FReg)
  | fsqrtr (fd fa fb : FReg)
  | fisneg (fa : FReg)
  | fiszero (fa : FReg)
  | fcmov (fd fa : FReg)
  | fld (fd : FReg)
  | fst (fa : FReg)
  | pzero (pd : PReg)
  | pmov (pd pa : PReg)
  | psetc (pd : PReg) (fa : FReg) (c : Component)
  | pgetc (fd : FReg) (pa : PReg) (c : Component)
  | pform (pd : PReg) (form : Form)
  | pdbl (pd pa : PReg)
  | padd (pd pa pb : PReg)
  | pmadd (pd pa pb : PReg)
  | ptop2 (pd pa : PReg)
  | ptop3 (pd pa : PReg)
  | ptocached (pd pa : PReg)
  | pcmov (pd pa : PReg)
  | penc (pa : PReg)
  | pdec (pd : PReg) (mode : DecodeMode)
  | psel (pd : PReg) (pos : Fin 32) (dig : Int)
  | smulb (pd : PReg)
  | setcf (v : Bool)
deriving DecidableEq, Repr

/-- The pseudo-instructions of 30_encoding.md R92: names for sequences of commands, with no
meaning of their own. -/
inductive Pseudo where
  | fdbl (fd fa : FReg)
  | fldd (fd : FReg)
  | fld2d (fd : FReg)
  | fldsqrtm1 (fd : FReg)
  | fsqrt (fd fa ft : FReg)
  | clrcf
  | pdecneg (pd : PReg)
  | pdbl3 (pd pa : PReg)
  | padd3 (pd pa pb : PReg)
  | pmadd3 (pd pa pb : PReg)
deriving DecidableEq, Repr

end Sys2Proof
end

