-- ==== Sys2Proof/WellFormed.lean ====
section
/-! DEFINITION. WellFormed.lean: which terms of Instr are commands. The register, component, form,
constant, mode and position operands have no ill-formed value by their types (30_encoding.md R83,
R85, R87); the one check left is the digit of PSEL (R86). -/

namespace Sys2Proof

/-- The legal range of DIG, the source's digit range (30_encoding.md R86). -/
def digitLegal (dig : Int) : Bool := decide (-8 ≤ dig) && decide (dig ≤ 8)

/-- A term of Instr that some command word encodes. -/
def Instr.wellFormed : Instr → Bool
  | .psel _ _ dig => digitLegal dig
  | .nop | .fzero _ | .fone _ | .fmov _ _ | .fconst _ _ | .fadd _ _ _ | .fsub _ _ _ | .fneg _ _
  | .fmul _ _ _ | .fsq _ _ | .fsq2 _ _ | .finv _ _ | .fpow22523 _ _ | .fsqrtr _ _ _ | .fisneg _
  | .fiszero _ | .fcmov _ _ | .fld _ | .fst _ | .pzero _ | .pmov _ _ | .psetc _ _ _ | .pgetc _ _ _
  | .pform _ _ | .pdbl _ _ | .padd _ _ _ | .pmadd _ _ _ | .ptop2 _ _ | .ptop3 _ _
  | .ptocached _ _ | .pcmov _ _ | .penc _ | .pdec _ _ | .smulb _ | .setcf _ => true

end Sys2Proof
end

