-- ==== Sys2Proof/Decode.lean ====
section
/-! DEFINITION. Decode.lean: command words to commands and back (30_encoding.md R80 to R92).
`decode` is total on all 2^32 words and rejects by name; every rejection is the one error
E_ILLEGAL (R89, R214), the names only say which check of R80 failed first. -/

namespace Sys2Proof

/-- Which check of 30_encoding.md R80 a word fails first. -/
inductive DecodeError where
  /-- w[7:0] is no opcode of the table (R87). -/
  | unknownOpcode
  /-- A reserved bit of the format is 1 (R81, R82, R88). -/
  | reservedBits
  /-- A field the opcode does not use is not zero (R88). -/
  | nonzeroField
  /-- A point-register field holds 8..15 (R85). -/
  | pointIndex
  /-- C is outside the range R87 gives the opcode. -/
  | immediateRange
  /-- DIG is outside -8..8 (R86). -/
  | digitRange
deriving DecidableEq, Repr

/-! ## Fields of a word (R81, R82) -/

/-- OP, bits 7:0. -/
def opField (w : Word) : BitVec 8 := w.extractLsb' 0 8

/-- D, bits 11:8. -/
def dField (w : Word) : BitVec 4 := w.extractLsb' 8 4

/-- A, bits 15:12 (format R). -/
def aField (w : Word) : BitVec 4 := w.extractLsb' 12 4

/-- B, bits 19:16 (format R). -/
def bField (w : Word) : BitVec 4 := w.extractLsb' 16 4

/-- C, bits 23:20 (format R). -/
def cField (w : Word) : BitVec 4 := w.extractLsb' 20 4

/-- The reserved bits 31:24 of format R. -/
def reservedR (w : Word) : BitVec 8 := w.extractLsb' 24 8

/-- POS, bits 16:12 (format S). -/
def posField (w : Word) : BitVec 5 := w.extractLsb' 12 5

/-- DIG, bits 21:17 (format S). -/
def digField (w : Word) : BitVec 5 := w.extractLsb' 17 5

/-- The reserved bits 31:22 of format S. -/
def reservedS (w : Word) : BitVec 10 := w.extractLsb' 22 10

/-! ## Checks, in the order of R80 -/

/-- Format R's reserved bits are zero (R81, R88). -/
def formatR (w : Word) : Except DecodeError Unit :=
  if reservedR w = 0#8 then .ok () else .error .reservedBits

/-- Format S's reserved bits are zero (R82, R88). -/
def formatS (w : Word) : Except DecodeError Unit :=
  if reservedS w = 0#10 then .ok () else .error .reservedBits

/-- The fields the opcode does not use are zero (R88). -/
def unused (fields : List (BitVec 4)) : Except DecodeError Unit :=
  if fields.all (· == 0#4) then .ok () else .error .nonzeroField

/-- A field-register operand: every index is legal (R83). -/
def fregOf (x : BitVec 4) : FReg := x.toFin

/-- A point-register operand: 0..7 (R85). -/
def pregOf (x : BitVec 4) : Except DecodeError PReg :=
  if h : x.toNat < 8 then .ok ⟨x.toNat, h⟩ else .error .pointIndex

/-- FCONST's selector: C in 0..2 (R87, 40_field.md R104). -/
def constOf (x : BitVec 4) : Except DecodeError CurveConst :=
  match x.toNat with
  | 0 => .ok .d
  | 1 => .ok .d2
  | 2 => .ok .sqrtm1
  | _ => .error .immediateRange

/-- PSETC's and PGETC's component: C in 0..3 (R87). -/
def componentOf (x : BitVec 4) : Except DecodeError Component :=
  match x.toNat with
  | 0 => .ok .c0
  | 1 => .ok .c1
  | 2 => .ok .c2
  | 3 => .ok .c3
  | _ => .error .immediateRange

/-- PFORM's tag: C in 0..5 (R87, 41_group.md R164). -/
def formOf (x : BitVec 4) : Except DecodeError Form :=
  match x.toNat with
  | 0 => .ok .NONE
  | 1 => .ok .P2
  | 2 => .ok .P3
  | 3 => .ok .P1P1
  | 4 => .ok .PRECOMP
  | 5 => .ok .CACHED
  | _ => .error .immediateRange

/-- PDEC's mode: C in 0..1 (R87, 41_group.md R155). -/
def modeOf (x : BitVec 4) : Except DecodeError DecodeMode :=
  match x.toNat with
  | 0 => .ok .plain
  | 1 => .ok .negated
  | _ => .error .immediateRange

/-- SETCF's value: C in 0..1 (R87, 43_control.md R201). -/
def flagOf (x : BitVec 4) : Except DecodeError Bool :=
  match x.toNat with
  | 0 => .ok false
  | 1 => .ok true
  | _ => .error .immediateRange

/-- PSEL's digit: sext_5 of the field, legal in -8..8 (R86). -/
def digitOf (x : BitVec 5) : Except DecodeError Int :=
  if -8 ≤ x.toInt ∧ x.toInt ≤ 8 then .ok x.toInt else .error .digitRange

/-! ## The decoder -/

/-- Decoding a command word: the opcode map R87 under the checks of R80, in R80's order. -/
def decode (w : Word) : Except DecodeError Instr :=
  let d := dField w
  let a := aField w
  let b := bField w
  let c := cField w
  match (opField w).toNat with
  | 0x00 => do formatR w; unused [d, a, b, c]; pure .nop
  | 0x01 => do formatR w; unused [a, b, c]; pure (.fzero (fregOf d))
  | 0x02 => do formatR w; unused [a, b, c]; pure (.fone (fregOf d))
  | 0x03 => do formatR w; unused [b, c]; pure (.fmov (fregOf d) (fregOf a))
  | 0x04 => do formatR w; unused [a, b]; pure (.fconst (fregOf d) (← constOf c))
  | 0x08 => do formatR w; unused [c]; pure (.fadd (fregOf d) (fregOf a) (fregOf b))
  | 0x09 => do formatR w; unused [c]; pure (.fsub (fregOf d) (fregOf a) (fregOf b))
  | 0x0A => do formatR w; unused [b, c]; pure (.fneg (fregOf d) (fregOf a))
  | 0x0B => do formatR w; unused [c]; pure (.fmul (fregOf d) (fregOf a) (fregOf b))
  | 0x0C => do formatR w; unused [b, c]; pure (.fsq (fregOf d) (fregOf a))
  | 0x0D => do formatR w; unused [b, c]; pure (.fsq2 (fregOf d) (fregOf a))
  | 0x0E => do formatR w; unused [b, c]; pure (.finv (fregOf d) (fregOf a))
  | 0x0F => do formatR w; unused [b, c]; pure (.fpow22523 (fregOf d) (fregOf a))
  | 0x10 => do formatR w; unused [c]; pure (.fsqrtr (fregOf d) (fregOf a) (fregOf b))
  | 0x11 => do formatR w; unused [d, b, c]; pure (.fisneg (fregOf a))
  | 0x12 => do formatR w; unused [d, b, c]; pure (.fiszero (fregOf a))
  | 0x13 => do formatR w; unused [b, c]; pure (.fcmov (fregOf d) (fregOf a))
  | 0x18 => do formatR w; unused [a, b, c]; pure (.fld (fregOf d))
  | 0x19 => do formatR w; unused [d, b, c]; pure (.fst (fregOf a))
  | 0x20 => do formatR w; unused [a, b, c]; pure (.pzero (← pregOf d))
  | 0x21 => do formatR w; unused [b, c]; pure (.pmov (← pregOf d) (← pregOf a))
  | 0x22 => do formatR w; unused [b]; pure (.psetc (← pregOf d) (fregOf a) (← componentOf c))
  | 0x23 => do formatR w; unused [b]; pure (.pgetc (fregOf d) (← pregOf a) (← componentOf c))
  | 0x24 => do formatR w; unused [a, b]; pure (.pform (← pregOf d) (← formOf c))
  | 0x28 => do formatR w; unused [b, c]; pure (.pdbl (← pregOf d) (← pregOf a))
  | 0x29 => do formatR w; unused [c]; pure (.padd (← pregOf d) (← pregOf a) (← pregOf b))
  | 0x2A => do formatR w; unused [c]; pure (.pmadd (← pregOf d) (← pregOf a) (← pregOf b))
  | 0x2C => do formatR w; unused [b, c]; pure (.ptop2 (← pregOf d) (← pregOf a))
  | 0x2D => do formatR w; unused [b, c]; pure (.ptop3 (← pregOf d) (← pregOf a))
  | 0x2E => do formatR w; unused [b, c]; pure (.ptocached (← pregOf d) (← pregOf a))
  | 0x2F => do formatR w; unused [b, c]; pure (.pcmov (← pregOf d) (← pregOf a))
  | 0x30 => do formatR w; unused [d, b, c]; pure (.penc (← pregOf a))
  | 0x31 => do formatR w; unused [a, b]; pure (.pdec (← pregOf d) (← modeOf c))
  | 0x38 => do formatS w; pure (.psel (← pregOf d) (posField w).toFin (← digitOf (digField w)))
  | 0x39 => do formatR w; unused [a, b, c]; pure (.smulb (← pregOf d))
  | 0x3E => do formatR w; unused [d, a, b]; pure (.setcf (← flagOf c))
  | _ => .error .unknownOpcode

/-- The instruction the decoder reads from the table's numbering of a word: a command is one 32-bit
word (R90), so the bits above `nbits` are the word's zero bits. -/
def decodeTableWord (nbits w : Nat) : Option Instr :=
  (decode (BitVec.ofNat 32 (w % 2 ^ nbits))).toOption

/-! ## The encoder -/

/-- encodeR of R81: the reserved bits are zero. -/
def encodeR (op : BitVec 8) (d a b c : BitVec 4) : Word := 0#8 ++ c ++ b ++ a ++ d ++ op

/-- encodeS of R82: the reserved bits are zero. -/
def encodeS (op : BitVec 8) (d : BitVec 4) (pos dig : BitVec 5) : Word :=
  0#10 ++ dig ++ pos ++ d ++ op

/-- A field-register index as its 4-bit field. -/
def fregBits (r : FReg) : BitVec 4 := BitVec.ofNat 4 r.val

/-- A point-register index as its 4-bit field. -/
def pregBits (r : PReg) : BitVec 4 := BitVec.ofNat 4 r.val

/-- FCONST's selector as C (40_field.md R104). -/
def constBits : CurveConst → BitVec 4
  | .d => 0#4
  | .d2 => 1#4
  | .sqrtm1 => 2#4

/-- A component index as C (41_group.md R161). -/
def componentBits : Component → BitVec 4
  | .c0 => 0#4
  | .c1 => 1#4
  | .c2 => 2#4
  | .c3 => 3#4

/-- A form tag as C (41_group.md R164). -/
def formBits : Form → BitVec 4
  | .NONE => 0#4
  | .P2 => 1#4
  | .P3 => 2#4
  | .P1P1 => 3#4
  | .PRECOMP => 4#4
  | .CACHED => 5#4

/-- PDEC's mode as C (41_group.md R155). -/
def modeBits : DecodeMode → BitVec 4
  | .plain => 0#4
  | .negated => 1#4

/-- A flag value as C (43_control.md R201). -/
def flagBits (v : Bool) : BitVec 4 := if v then 1#4 else 0#4

/-- The command word of a command (R81, R82, R87); meant for well-formed terms, since a digit
outside -8..8 has no legal field. -/
def encode : Instr → Word
  | .nop => encodeR 0x00#8 0#4 0#4 0#4 0#4
  | .fzero fd => encodeR 0x01#8 (fregBits fd) 0#4 0#4 0#4
  | .fone fd => encodeR 0x02#8 (fregBits fd) 0#4 0#4 0#4
  | .fmov fd fa => encodeR 0x03#8 (fregBits fd) (fregBits fa) 0#4 0#4
  | .fconst fd k => encodeR 0x04#8 (fregBits fd) 0#4 0#4 (constBits k)
  | .fadd fd fa fb => encodeR 0x08#8 (fregBits fd) (fregBits fa) (fregBits fb) 0#4
  | .fsub fd fa fb => encodeR 0x09#8 (fregBits fd) (fregBits fa) (fregBits fb) 0#4
  | .fneg fd fa => encodeR 0x0A#8 (fregBits fd) (fregBits fa) 0#4 0#4
  | .fmul fd fa fb => encodeR 0x0B#8 (fregBits fd) (fregBits fa) (fregBits fb) 0#4
  | .fsq fd fa => encodeR 0x0C#8 (fregBits fd) (fregBits fa) 0#4 0#4
  | .fsq2 fd fa => encodeR 0x0D#8 (fregBits fd) (fregBits fa) 0#4 0#4
  | .finv fd fa => encodeR 0x0E#8 (fregBits fd) (fregBits fa) 0#4 0#4
  | .fpow22523 fd fa => encodeR 0x0F#8 (fregBits fd) (fregBits fa) 0#4 0#4
  | .fsqrtr fd fa fb => encodeR 0x10#8 (fregBits fd) (fregBits fa) (fregBits fb) 0#4
  | .fisneg fa => encodeR 0x11#8 0#4 (fregBits fa) 0#4 0#4
  | .fiszero fa => encodeR 0x12#8 0#4 (fregBits fa) 0#4 0#4
  | .fcmov fd fa => encodeR 0x13#8 (fregBits fd) (fregBits fa) 0#4 0#4
  | .fld fd => encodeR 0x18#8 (fregBits fd) 0#4 0#4 0#4
  | .fst fa => encodeR 0x19#8 0#4 (fregBits fa) 0#4 0#4
  | .pzero pd => encodeR 0x20#8 (pregBits pd) 0#4 0#4 0#4
  | .pmov pd pa => encodeR 0x21#8 (pregBits pd) (pregBits pa) 0#4 0#4
  | .psetc pd fa c => encodeR 0x22#8 (pregBits pd) (fregBits fa) 0#4 (componentBits c)
  | .pgetc fd pa c => encodeR 0x23#8 (fregBits fd) (pregBits pa) 0#4 (componentBits c)
  | .pform pd form => encodeR 0x24#8 (pregBits pd) 0#4 0#4 (formBits form)
  | .pdbl pd pa => encodeR 0x28#8 (pregBits pd) (pregBits pa) 0#4 0#4
  | .padd pd pa pb => encodeR 0x29#8 (pregBits pd) (pregBits pa) (pregBits pb) 0#4
  | .pmadd pd pa pb => encodeR 0x2A#8 (pregBits pd) (pregBits pa) (pregBits pb) 0#4
  | .ptop2 pd pa => encodeR 0x2C#8 (pregBits pd) (pregBits pa) 0#4 0#4
  | .ptop3 pd pa => encodeR 0x2D#8 (pregBits pd) (pregBits pa) 0#4 0#4
  | .ptocached pd pa => encodeR 0x2E#8 (pregBits pd) (pregBits pa) 0#4 0#4
  | .pcmov pd pa => encodeR 0x2F#8 (pregBits pd) (pregBits pa) 0#4 0#4
  | .penc pa => encodeR 0x30#8 0#4 (pregBits pa) 0#4 0#4
  | .pdec pd mode => encodeR 0x31#8 (pregBits pd) 0#4 0#4 (modeBits mode)
  | .psel pd pos dig =>
      encodeS 0x38#8 (pregBits pd) (BitVec.ofNat 5 pos.val) (BitVec.ofInt 5 dig)
  | .smulb pd => encodeR 0x39#8 (pregBits pd) 0#4 0#4 0#4
  | .setcf v => encodeR 0x3E#8 0#4 0#4 0#4 (flagBits v)

/-- The commands a pseudo-instruction stands for (R92). -/
def Pseudo.expand : Pseudo → List Instr
  | .fdbl fd fa => [.fadd fd fa fa]
  | .fldd fd => [.fconst fd .d]
  | .fld2d fd => [.fconst fd .d2]
  | .fldsqrtm1 fd => [.fconst fd .sqrtm1]
  | .fsqrt fd fa ft => [.fone ft, .fsqrtr fd fa ft]
  | .clrcf => [.setcf false]
  | .pdecneg pd => [.pdec pd .negated]
  | .pdbl3 pd pa => [.pdbl pd pa, .ptop3 pd pd]
  | .padd3 pd pa pb => [.padd pd pa pb, .ptop3 pd pd]
  | .pmadd3 pd pa pb => [.pmadd pd pa pb, .ptop3 pd pd]

/-! ## Assembler text (R91) -/

/-- A field register as the assembler writes it. -/
def fregText (r : FReg) : String := "f" ++ toString r.val

/-- A point register as the assembler writes it. -/
def pregText (r : PReg) : String := "p" ++ toString r.val

/-- A component as the assembler writes it. -/
def componentText : Component → String
  | .c0 => "c0"
  | .c1 => "c1"
  | .c2 => "c2"
  | .c3 => "c3"

/-- A form name as the assembler writes it. -/
def formText : Form → String
  | .NONE => "NONE"
  | .P2 => "P2"
  | .P3 => "P3"
  | .P1P1 => "P1P1"
  | .PRECOMP => "PRECOMP"
  | .CACHED => "CACHED"

/-- A mnemonic with its operands, separated by commas (00_scope.md R13). -/
def asmLine (mnemonic : String) (operands : List String) : String :=
  if operands.isEmpty then mnemonic else mnemonic ++ " " ++ String.intercalate ", " operands

/-- The assembler text of a command (R91): D, then A, then B, then C, without the unused fields. -/
def Instr.text : Instr → String
  | .nop => asmLine "NOP" []
  | .fzero fd => asmLine "FZERO" [fregText fd]
  | .fone fd => asmLine "FONE" [fregText fd]
  | .fmov fd fa => asmLine "FMOV" [fregText fd, fregText fa]
  | .fconst fd k => asmLine "FCONST" [fregText fd, toString (constBits k).toNat]
  | .fadd fd fa fb => asmLine "FADD" [fregText fd, fregText fa, fregText fb]
  | .fsub fd fa fb => asmLine "FSUB" [fregText fd, fregText fa, fregText fb]
  | .fneg fd fa => asmLine "FNEG" [fregText fd, fregText fa]
  | .fmul fd fa fb => asmLine "FMUL" [fregText fd, fregText fa, fregText fb]
  | .fsq fd fa => asmLine "FSQ" [fregText fd, fregText fa]
  | .fsq2 fd fa => asmLine "FSQ2" [fregText fd, fregText fa]
  | .finv fd fa => asmLine "FINV" [fregText fd, fregText fa]
  | .fpow22523 fd fa => asmLine "FPOW22523" [fregText fd, fregText fa]
  | .fsqrtr fd fa fb => asmLine "FSQRTR" [fregText fd, fregText fa, fregText fb]
  | .fisneg fa => asmLine "FISNEG" [fregText fa]
  | .fiszero fa => asmLine "FISZERO" [fregText fa]
  | .fcmov fd fa => asmLine "FCMOV" [fregText fd, fregText fa]
  | .fld fd => asmLine "FLD" [fregText fd]
  | .fst fa => asmLine "FST" [fregText fa]
  | .pzero pd => asmLine "PZERO" [pregText pd]
  | .pmov pd pa => asmLine "PMOV" [pregText pd, pregText pa]
  | .psetc pd fa c => asmLine "PSETC" [pregText pd, fregText fa, componentText c]
  | .pgetc fd pa c => asmLine "PGETC" [fregText fd, pregText pa, componentText c]
  | .pform pd form => asmLine "PFORM" [pregText pd, formText form]
  | .pdbl pd pa => asmLine "PDBL" [pregText pd, pregText pa]
  | .padd pd pa pb => asmLine "PADD" [pregText pd, pregText pa, pregText pb]
  | .pmadd pd pa pb => asmLine "PMADD" [pregText pd, pregText pa, pregText pb]
  | .ptop2 pd pa => asmLine "PTOP2" [pregText pd, pregText pa]
  | .ptop3 pd pa => asmLine "PTOP3" [pregText pd, pregText pa]
  | .ptocached pd pa => asmLine "PTOCACHED" [pregText pd, pregText pa]
  | .pcmov pd pa => asmLine "PCMOV" [pregText pd, pregText pa]
  | .penc pa => asmLine "PENC" [pregText pa]
  | .pdec pd mode => asmLine "PDEC" [pregText pd, toString (modeBits mode).toNat]
  | .psel pd pos dig => asmLine "PSEL" [pregText pd, toString pos.val, toString dig]
  | .smulb pd => asmLine "SMULB" [pregText pd]
  | .setcf v => asmLine "SETCF" [toString (flagBits v).toNat]

end Sys2Proof
end

