-- ==== Sys2Proof/Machine/State.lean ====
section
/-! DEFINITION. Machine/State.lean: the state of one C25519-CORE instance (10_state.md R20), the
moves of the agents outside the core (00_scope.md R17, 20_memory.md R54, R60, R66), the ways a step can stop,
and the state after reset (10_state.md R39). Plain data throughout. -/

namespace Sys2Proof.Machine

/-! ## What the outside does to the block -/

/-- The two things a host access of the window can be (00_scope.md R11: MemRead, MemWrite). -/
inductive AccessKind where
  | read
  | write (v : Word)
deriving DecidableEq, Repr

/-- One host access: the byte offset of its address from CORE_BASE (20_memory.md R50; log 4), its
width in bytes, and what it does. Only 4-byte accesses have a meaning (R53); the value of a write
of another width is immaterial, since the access is refused. -/
structure Access where
  off : Nat
  bytes : Nat
  kind : AccessKind
deriving DecidableEq, Repr

/-- One move of an agent (00_scope.md R17). The order of moves is data in State (log 1). -/
inductive Move where
  /-- The host performs an access (20_memory.md R54, R60). -/
  | host (a : Access)
  /-- The core takes its turn: Complete if BUSY = 1, else nothing (20_memory.md R66; log 12). -/
  | coreTurn
  /-- The platform pulses the reset input, or power returns (70_reset_and_hazards.md R240,
  60_exceptions.md R235; log 10). -/
  | hardReset
  /-- A second host agent or another bus master accesses the window (20_memory.md R64, U3). -/
  | otherMaster (a : Access)
deriving DecidableEq, Repr

/-! ## Point registers -/

/-- The record a point register holds (10_state.md R23). What the components mean depends on the
form; the block never checks that they suit it. -/
structure PointReg where
  form : Form
  c0 : Nat
  c1 : Nat
  c2 : Nat
  c3 : Nat
deriving DecidableEq, Repr

/-- A point register after reset (10_state.md R39). -/
def PointReg.none : PointReg := ⟨.NONE, 0, 0, 0, 0⟩

/-! ## The state -/

/-- The architectural state (10_state.md R20: exactly these), then three fields of the model's own
for the world around the block (logs 1, 2, 3). -/
structure State where
  /-- F[0..15], field registers: one residue in [0, p) each (R21; log 7). -/
  f : Vector Nat 16
  /-- P[0..7], point registers (R23). -/
  p : Vector PointReg 8
  /-- CF, the condition flag (R24). -/
  cf : Bool
  /-- DATA, the data buffer (R25, R35). -/
  data : Buffer
  /-- BUSY (R29). -/
  busy : Bool
  /-- PENDING, meaningful only while BUSY = 1 (R29; log 11). -/
  pending : Word
  /-- CTRL.IE (R32). -/
  ie : Bool
  /-- STATUS.DONE (R33). -/
  done : Bool
  /-- STATUS.ERR (R33). -/
  err : Bool
  /-- STATUS.ERRCODE (R33, 60_exceptions.md R210). -/
  errcode : Byte
  /-- The model's own: the moves still to come, first one first (log 1). -/
  moves : List Move
  /-- The model's own: what the host's reads returned, newest first (log 2). -/
  reads : List Word
  /-- The model's own: how many free values have been drawn (log 3). -/
  draws : Nat
deriving DecidableEq, Repr

/-- Reasons to stop with a fault: none. The block takes no trap (60_exceptions.md R223), reports
every error in STATUS and goes on (R212, R216), and has no stuck state
(93_implementation_defined.md, end of part 1). Log 17. -/
inductive Fault
deriving DecidableEq, Repr

/-- Reasons to refuse a step. -/
inductive Refusal where
  /-- Raised by exec for a command that has no meaning in the model yet; safe. No arm raises it. -/
  | notModelled (mnemonic : String)
  /-- Raised by a host access whose address is outside the 64-byte window: it does not belong to
  the block (20_memory.md R51, U4); safe. -/
  | outsideWindow
  /-- Raised by a host access of 8, 16 or 64 bits, which the spec has the model refuse
  (20_memory.md R53, U2); safe. -/
  | accessWidth
  /-- Raised by a host access at an address that is not a multiple of 4, which the spec has the
  model refuse (20_memory.md R53, U2); safe. -/
  | misaligned
  /-- Raised by an access of a second host agent or another bus master, which is outside the spec
  (20_memory.md R64, U3); safe. -/
  | otherMaster
deriving DecidableEq, Repr

/-- What a step or a meaning answers. -/
abbrev Result := Host.Outcome State Fault Refusal

/-- The machine right after reset (10_state.md R39), with no move to come (logs 1, 2, 3, 6). -/
def State.reset : State where
  f := Vector.replicate 16 0
  p := Vector.replicate 8 PointReg.none
  cf := false
  data := 0#256
  busy := false
  pending := 0#32
  ie := false
  done := false
  err := false
  errcode := 0#8
  moves := []
  reads := []
  draws := 0

end Sys2Proof.Machine
end

