-- ==== Sys2Proof/Machine/Ops.lean ====
section
/-! DEFINITION. Machine/Ops.lean: the named operations over the state: register access
(00_scope.md R10), raising an error and the way back from one (60_exceptions.md R211, R212, R223),
accepting and completing a command (10_state.md R34, 20_memory.md R66), and reset
(10_state.md R39). -/

namespace Sys2Proof.Machine

/-- The error codes a command or a host write can raise (60_exceptions.md R210). -/
inductive ErrorCode where
  /-- A host write of CMD or DATAk while BUSY = 1. -/
  | busy
  /-- The word decodes to no command. -/
  | illegal
  /-- An operand point register has a form the command does not accept. -/
  | form
  /-- The scalar in DATA has bit 255 set. -/
  | scalar
deriving DecidableEq, Repr

/-- The code as STATUS.ERRCODE holds it (60_exceptions.md R210). -/
def ErrorCode.toByte : ErrorCode → Byte
  | .busy => 0x01#8
  | .illegal => 0x02#8
  | .form => 0x03#8
  | .scalar => 0x04#8

/-! ## Registers -/

/-- F[i] (00_scope.md R10). -/
def State.getF (s : State) (i : FReg) : Nat := s.f[i]

/-- F[i] <- v. -/
def State.setF (s : State) (i : FReg) (v : Nat) : State := { s with f := s.f.set i v }

/-- P[i] (00_scope.md R10). -/
def State.getP (s : State) (i : PReg) : PointReg := s.p[i]

/-- P[i] <- v: form and all four components (10_state.md R27). -/
def State.setP (s : State) (i : PReg) (v : PointReg) : State := { s with p := s.p.set i v }

/-- CF <- v. -/
def State.setCF (s : State) (v : Bool) : State := { s with cf := v }

/-- DATA <- v. -/
def State.setData (s : State) (v : Buffer) : State := { s with data := v }

/-! ## Errors, and the way back -/

/-- Recording an error: ERR <- 1, ERRCODE <- code, and nothing else (60_exceptions.md R212). -/
def State.recordError (s : State) (c : ErrorCode) : State :=
  { s with err := true, errcode := c.toByte }

/-- The host's way back from an error: ERR <- 0, ERRCODE <- 0 (10_state.md R33,
60_exceptions.md R223). -/
def State.clearError (s : State) : State := { s with err := false, errcode := 0#8 }

/-- The host's way back from a completion interrupt: DONE <- 0 (10_state.md R33,
60_exceptions.md R223). -/
def State.clearDone (s : State) : State := { s with done := false }

/-- A command that raises an error ends with no other effect (00_scope.md R11,
60_exceptions.md R212). -/
def raise (c : ErrorCode) (s : State) : Result := .next (s.recordError c)

/-! ## The life of a command -/

/-- An accepted write of CMD: the word is captured, not checked (10_state.md R34,
60_exceptions.md R213). -/
def State.accept (s : State) (w : Word) : State := { s with pending := w, busy := true }

/-- The end of every Complete step: BUSY <- 0, DONE <- 1, error or not (20_memory.md R66,
60_exceptions.md R211). -/
def State.finish (s : State) : State := { s with busy := false, done := true }

/-! ## Reset -/

/-- Every piece of the block's state takes its reset value (10_state.md R39); the world around it,
the model's own fields, goes on (log 19). -/
def State.zeroise (s : State) : State :=
  { State.reset with moves := s.moves, reads := s.reads, draws := s.draws }

end Sys2Proof.Machine
end

