-- ==== Sys2Proof/Machine/Control.lean ====
section
/-! DEFINITION. Machine/Control.lean: the control commands (43_control.md R200, R201). -/

namespace Sys2Proof.Machine

/-- NOP: nothing; the Complete step around it still clears BUSY and sets DONE (R200). -/
def execNop (s : State) : Result := .next s

/-- SETCF v: CF <- v (R201). -/
def execSetcf (v : Bool) (s : State) : Result := .next (s.setCF v)

end Sys2Proof.Machine
end

