-- ==== Sys2Proof/Machine/Flags.lean ====
section
/-! DEFINITION. Machine/Flags.lean: every flag computation: the predicates that write CF
(40_field.md R115, R116), the words CTRL and STATUS read as (10_state.md R32, R33), and the
interrupt request (60_exceptions.md R220, R221). -/

namespace Sys2Proof.Machine

/-- CF after FISNEG: bit 0 of the value (40_field.md R115). -/
def negFlag (v : Nat) : Bool := isneg v

/-- CF after FISZERO (40_field.md R116). -/
def zeroFlag (v : Nat) : Bool := v == 0

/-- A flag as one bit. -/
def flagBit (b : Bool) : BitVec 1 := BitVec.ofBool b

/-- CTRL as read: IE in bit 0, SRST and the reserved bits zero (10_state.md R32). -/
def ctrlWord (s : State) : Word := 0#30 ++ 0#1 ++ flagBit s.ie

/-- STATUS as read: BUSY 0, DONE 1, ERR 2, CF 3, ERRCODE 15:8, the rest zero (10_state.md R33). -/
def statusWord (s : State) : Word :=
  0#16 ++ s.errcode ++ 0#4 ++ flagBit s.cf ++ flagBit s.err ++ flagBit s.done ++ flagBit s.busy

/-- IRQ = CTRL.IE and (STATUS.DONE or STATUS.ERR), a level, not a stored bit (60_exceptions.md R220,
10_state.md R38). -/
def State.irq (s : State) : Bool := s.ie && (s.done || s.err)

/-- The level of the host's interrupt input `n` as this block drives it: IRQ reaches input CORE_IRQ
only (60_exceptions.md R221). Log 14. -/
def State.hostInterrupt (s : State) (n : Nat) : Bool := n == Config.coreIrq && s.irq

/-- The request the host sees at input `n` from this block: the input's priority among its sources
while the level is high and the host does not mask it (60_exceptions.md R221). Log 14. -/
def State.hostRequest (s : State) (n : Nat) : Option Nat :=
  if s.hostInterrupt n && !Config.coreIrqMasked then some Config.coreIrqPriority else none

end Sys2Proof.Machine
end

