-- ==== Sys2Proof/Machine/Points.lean ====
section
/-! DEFINITION. Machine/Points.lean: the values the group commands compute, as functions on records
(41_group.md R145 to R155; the form checks are in Operands.lean). -/

namespace Sys2Proof.Machine

/-- The identity in extended form (41_group.md R159). -/
def identityP3 : PointReg := ⟨.P3, 0, 1, 1, 0⟩

/-- Doubling, P2 or P3 to P1P1; c3 is not read (R145). -/
def dbl (a : PointReg) : PointReg :=
  let rX := fsq a.c0
  let rZ := fsq a.c1
  let rT := fmul 2 (fsq a.c2)
  let rY := fadd a.c0 a.c1
  let t0 := fsq rY
  let rY := fadd rZ rX
  let rZ := fsub rZ rX
  let rX := fsub t0 rY
  let rT := fsub rT rZ
  ⟨.P1P1, rX, rY, rZ, rT⟩

/-- Mixed addition, P3 + PRECOMP to P1P1; c3 of the second operand is not read (R146). -/
def mAdd (p q : PointReg) : PointReg :=
  let a := fmul (fadd p.c1 p.c0) q.c0
  let b := fmul (fsub p.c1 p.c0) q.c1
  let c := fmul q.c2 p.c3
  let dd := fadd p.c2 p.c2
  ⟨.P1P1, fsub a b, fadd a b, fadd dd c, fsub dd c⟩

/-- General addition, P3 + CACHED to P1P1 (R147). -/
def pAdd (p q : PointReg) : PointReg :=
  let a := fmul (fadd p.c1 p.c0) q.c0
  let b := fmul (fsub p.c1 p.c0) q.c1
  let c := fmul q.c3 p.c3
  let zz := fmul p.c2 q.c2
  let dd := fadd zz zz
  ⟨.P1P1, fsub a b, fadd a b, fadd dd c, fsub dd c⟩

/-- Conversion to P2, from P1P1 by multiplying out, from P3 by dropping T (R149). -/
def toP2 (a : PointReg) : PointReg :=
  if a.form = .P1P1 then ⟨.P2, fmul a.c0 a.c3, fmul a.c1 a.c2, fmul a.c2 a.c3, 0⟩
  else ⟨.P2, a.c0, a.c1, a.c2, 0⟩

/-- Conversion of P1P1 to P3 (R150). -/
def toP3 (a : PointReg) : PointReg :=
  ⟨.P3, fmul a.c0 a.c3, fmul a.c1 a.c2, fmul a.c2 a.c3, fmul a.c0 a.c1⟩

/-- Conversion of P3 to CACHED (R151). -/
def toCached (a : PointReg) : PointReg :=
  ⟨.CACHED, fadd a.c1 a.c0, fsub a.c1 a.c0, a.c2, fmul a.c3 constD2⟩

/-- The 32 bytes PENC writes: y in bits 254:0, the parity of x in bit 255 (R153, R154). -/
def encodePoint (a : PointReg) : Buffer :=
  let recip := finv a.c2
  let x := fmul a.c0 recip
  let y := fmul a.c1 recip
  BitVec.ofBool (isneg x) ++ BitVec.ofNat 255 y

/-- The value FLD takes from DATA: 255 bits, reduced (40_field.md R118). -/
def fromBytes (s : Buffer) : Nat := s.toNat % 2 ^ 255 % prime

/-- The root PDEC keeps: x or -x, by the sign bit of the encoding and the mode (R155). -/
def chooseSign (mode : DecodeMode) (sign : Bool) (x : Nat) : Nat :=
  match mode with
  | .plain => if isneg x != sign then fneg x else x
  | .negated => if isneg x == sign then fneg x else x

/-- The P3 record PDEC writes, or none when the bytes are no point (R155). -/
def decodePoint (mode : DecodeMode) (s : Buffer) : Option PointReg :=
  let y := fromBytes s
  let sign := s.getLsbD 255
  let u := fsub (fsq y) 1
  let v := fadd (fmul constD (fsq y)) 1
  match sqrtRatio u v with
  | none => none
  | some root =>
      let x := chooseSign mode sign root
      some ⟨.P3, x, y, 1, fmul x y⟩

end Sys2Proof.Machine
end

