-- ==== Sys2Proof/Machine/Operands.lean ====
section
/-! DEFINITION. Machine/Operands.lean: the operand forms of the commands: components, constants,
the accepted forms of point operands (41_group.md R141), the scalar of SMULB
(42_fixed_base.md R180), and the words of DATA the host sees (10_state.md R35). -/

namespace Sys2Proof.Machine

/-- P[i].cK, read (41_group.md R162). -/
def PointReg.get (a : PointReg) : Component → Nat
  | .c0 => a.c0
  | .c1 => a.c1
  | .c2 => a.c2
  | .c3 => a.c3

/-- P[i].cK <- v: the form and the other components are unchanged (41_group.md R161). -/
def PointReg.put (a : PointReg) (c : Component) (v : Nat) : PointReg :=
  match c with
  | .c0 => { a with c0 := v }
  | .c1 => { a with c1 := v }
  | .c2 => { a with c2 := v }
  | .c3 => { a with c3 := v }

/-- The constant FCONST loads (40_field.md R104). -/
def curveConst : CurveConst → Nat
  | .d => constD
  | .d2 => constD2
  | .sqrtm1 => constSqrtM1

/-- The forms PDBL and PENC accept: P2 or P3 (41_group.md R141). -/
def isP2orP3 (a : PointReg) : Bool := a.form == .P2 || a.form == .P3

/-- The forms PTOP2 accepts: P1P1 or P3 (41_group.md R141). -/
def isP1P1orP3 (a : PointReg) : Bool := a.form == .P1P1 || a.form == .P3

/-- One form, for the operands that accept one only (41_group.md R141). -/
def hasForm (form : Form) (a : PointReg) : Bool := a.form == form

/-- A command with a form check: E_FORM, and nothing else, when the check fails (41_group.md R140,
R141). With two operands the order of the checks cannot be seen, the code being the same
(60_exceptions.md R214). -/
def withForm (accepted : Bool) (s : State) (t : State) : Result :=
  if accepted then .next t else raise .form s

/-- The scalar LE(DATA) (42_fixed_base.md R180). -/
def scalarOf (s : State) : Nat := s.data.toNat

/-- Bit 255 of the scalar (42_fixed_base.md R190). -/
def scalarTopBit (s : State) : Bool := s.data.getLsbD 255

/-- DATAk = DATA[32k+31 : 32k] (10_state.md R35). -/
def dataWord (v : Buffer) (k : Fin 8) : Word := v.extractLsb' (32 * k.val) 32

/-- DATA with its bytes 4k..4k+3 replaced (10_state.md R35). -/
def putDataWord (v : Buffer) (k : Fin 8) (w : Word) : Buffer :=
  (v &&& ~~~(0xFFFFFFFF#256 <<< (32 * k.val))) ||| (w.setWidth 256 <<< (32 * k.val))

/-- Byte i of DATA (00_scope.md R8). -/
def dataByte (v : Buffer) (i : Fin 32) : Byte := v.extractLsb' (8 * i.val) 8

/-- LE32 of an integer below 2^256 (00_scope.md R8). -/
def toBytes (x : Nat) : Buffer := BitVec.ofNat 256 x

end Sys2Proof.Machine
end

