-- ==== Sys2Proof/Machine/Field.lean ====
section
/-! DEFINITION. Machine/Field.lean: the field commands (40_field.md R101 to R119). None raises an
error, and none but the three that say so writes CF (R100). -/

namespace Sys2Proof.Machine

/-- FZERO fd: F[D] <- 0 (R101). -/
def execFzero (fd : FReg) (s : State) : Result := .next (s.setF fd 0)

/-- FONE fd: F[D] <- 1 (R102). -/
def execFone (fd : FReg) (s : State) : Result := .next (s.setF fd 1)

/-- FMOV fd, fa: F[D] <- F[A] (R103). -/
def execFmov (fd fa : FReg) (s : State) : Result := .next (s.setF fd (s.getF fa))

/-- FCONST fd, k: F[D] <- d, 2d or the root of -1 (R104). -/
def execFconst (fd : FReg) (k : CurveConst) (s : State) : Result := .next (s.setF fd (curveConst k))

/-- FADD fd, fa, fb (R105). -/
def execFadd (fd fa fb : FReg) (s : State) : Result :=
  .next (s.setF fd (fadd (s.getF fa) (s.getF fb)))

/-- FSUB fd, fa, fb (R106). -/
def execFsub (fd fa fb : FReg) (s : State) : Result :=
  .next (s.setF fd (fsub (s.getF fa) (s.getF fb)))

/-- FNEG fd, fa (R107). -/
def execFneg (fd fa : FReg) (s : State) : Result := .next (s.setF fd (fneg (s.getF fa)))

/-- FMUL fd, fa, fb (R108). -/
def execFmul (fd fa fb : FReg) (s : State) : Result :=
  .next (s.setF fd (fmul (s.getF fa) (s.getF fb)))

/-- FSQ fd, fa (R109). -/
def execFsq (fd fa : FReg) (s : State) : Result := .next (s.setF fd (fsq (s.getF fa)))

/-- FSQ2 fd, fa: (2 F[A]^2) mod p (R110). -/
def execFsq2 (fd fa : FReg) (s : State) : Result := .next (s.setF fd (fmul 2 (fsq (s.getF fa))))

/-- FINV fd, fa: F[A]^(p-2) mod p (R111). -/
def execFinv (fd fa : FReg) (s : State) : Result := .next (s.setF fd (finv (s.getF fa)))

/-- FPOW22523 fd, fa: F[A]^((p-5)/8) mod p (R112). -/
def execFpow22523 (fd fa : FReg) (s : State) : Result := .next (s.setF fd (fpow22523 (s.getF fa)))

/-- FSQRTR fd, fa, fb: a root of F[A]/F[B] with CF <- 1, or CF <- 0 and F[D] unchanged (R114). -/
def execFsqrtr (fd fa fb : FReg) (s : State) : Result :=
  .next (match sqrtRatio (s.getF fa) (s.getF fb) with
    | some x => (s.setF fd x).setCF true
    | none => s.setCF false)

/-- FISNEG fa: CF <- F[A][0] (R115). -/
def execFisneg (fa : FReg) (s : State) : Result := .next (s.setCF (negFlag (s.getF fa)))

/-- FISZERO fa: CF <- (F[A] = 0) (R116). -/
def execFiszero (fa : FReg) (s : State) : Result := .next (s.setCF (zeroFlag (s.getF fa)))

/-- FCMOV fd, fa: if CF = 1 then F[D] <- F[A] (R117). -/
def execFcmov (fd fa : FReg) (s : State) : Result :=
  .next (if s.cf then s.setF fd (s.getF fa) else s)

/-- FLD fd: F[D] <- (DATA mod 2^255) mod p (R118). -/
def execFld (fd : FReg) (s : State) : Result := .next (s.setF fd (fromBytes s.data))

/-- FST fa: DATA <- LE32(F[A]) (R119). -/
def execFst (fa : FReg) (s : State) : Result := .next (s.setData (toBytes (s.getF fa)))

end Sys2Proof.Machine
end

