-- ==== Sys2Proof/Machine/BaseTable.lean ====
section
/-! DEFINITION. Machine/BaseTable.lean: the precomputed base-point table (20_memory.md R57, R58), its
constant-time lookup (42_fixed_base.md R184), the recoding of a scalar (R182) and the fixed-base
engine (R187). -/

namespace Sys2Proof.Machine

/-- precomp(x, y) of an affine point (20_memory.md R57). -/
def precomp (x y : Nat) : PointReg :=
  ⟨.PRECOMP, fadd y x, fsub y x, fmul constD2 (fmul x y), 0⟩

/-- k B for k below 2^bits, as a P3 record: double-and-add over the bits of k with the block's own
doubling and mixed addition. Log 9. -/
def baseMultiple : (bits k : Nat) → PointReg
  | 0, _ => identityP3
  | bits + 1, k =>
      let h := toP3 (dbl (baseMultiple bits (k / 2)))
      if k % 2 = 1 then toP3 (mAdd h (precomp baseX baseY)) else h

/-- The precomp record of the affine point a P3 record represents (x = X/Z, y = Y/Z). -/
def precompOf (a : PointReg) : PointReg :=
  let recip := finv a.c2
  precomp (fmul a.c0 recip) (fmul a.c1 recip)

/-- TABLE[pos][j] = precomp(affine((j+1) 256^pos B)) (20_memory.md R58). The largest multiple,
8 256^31, has 252 bits. -/
def table (pos j : Nat) : PointReg := precompOf (baseMultiple 256 ((j + 1) * 256 ^ pos))

/-- The precomputed identity (20_memory.md R57). -/
def precompIdentity : PointReg := ⟨.PRECOMP, 1, 1, 0, 0⟩

/-- The precomputed form of -(x, y): y+x and y-x swapped, 2dxy negated (42_fixed_base.md R184). -/
def negPrecomp (t : PointReg) : PointReg := ⟨.PRECOMP, t.c1, t.c0, fneg t.c2, 0⟩

/-- Select(pos, b): every one of the 8 entries is visited, whatever b is (R184). -/
def select (pos : Nat) (b : Int) : PointReg :=
  let t := (List.range 8).foldl
    (fun t j => if b.natAbs = j + 1 then table pos j else t) precompIdentity
  if b < 0 then negPrecomp t else t

/-- byte_i of an integer. -/
def byteOf (a i : Nat) : Nat := a / 256 ^ i % 256

/-- The 64 nibbles of a scalar before the carry pass, low nibble of each byte first (R182). -/
def nibbles (a : Nat) : List Int :=
  (List.range 32).flatMap fun i =>
    [((byteOf a i % 16 : Nat) : Int), ((byteOf a i / 16 % 16 : Nat) : Int)]

/-- The carry pass: every digit but the last keeps e - 16 carry and passes on
floor((e + 8)/16); the last only receives (R182). -/
def carryPass : List Int → Int → List Int
  | [], _ => []
  | [n], carry => [n + carry]
  | n :: m :: rest, carry =>
      let e := n + carry
      let out := (e + 8) / 16
      (e - 16 * out) :: carryPass (m :: rest) out

/-- Recode(a): the signed digits e[0..63] (R182). -/
def recode (a : Nat) : List Int := carryPass (nibbles a) 0

/-- e[i]. -/
def digit (e : List Int) (i : Nat) : Int := e.getD i 0

/-- Mixed addition of the selected multiple for every position, least significant first, with
digits 2 pos + offset: offset 1 is the odd pass of R187, offset 0 the even pass. -/
def accumulate (offset : Nat) (e : List Int) (h : PointReg) : PointReg :=
  (List.range 32).foldl
    (fun h pos => toP3 (mAdd h (select pos (digit e (2 * pos + offset))))) h

/-- Four doublings of a P3 record: the factor 16 between odd and even digits (R187). -/
def timesSixteen (h : PointReg) : PointReg :=
  toP3 (dbl (toP2 (dbl (toP2 (dbl (toP2 (dbl h)))))))

/-- FixedBase(a) (R187): odd digits, four doublings, even digits. -/
def fixedBase (a : Nat) : PointReg :=
  let e := recode a
  accumulate 0 e (timesSixteen (accumulate 1 e identityP3))

end Sys2Proof.Machine
end

