-- ==== Sys2Proof/Machine/FixedBase.lean ====
section
/-! DEFINITION. Machine/FixedBase.lean: the fixed-base commands (42_fixed_base.md R185, R188). -/

namespace Sys2Proof.Machine

/-- PSEL pd, POS, DIG: P[D] <- Select(POS, DIG) (R185). The decoder rejects a digit outside -8..8
before this runs; for such a term the answer is the same E_ILLEGAL (R185, R86; log 18). -/
def execPsel (pd : PReg) (pos : Fin 32) (dig : Int) (s : State) : Result :=
  if -8 ≤ dig ∧ dig ≤ 8 then .next (s.setP pd (select pos.val dig)) else raise .illegal s

/-- SMULB pd: P[D] <- FixedBase(LE(DATA)), or E_SCALAR when bit 255 is set (R188, R190). -/
def execSmulb (pd : PReg) (s : State) : Result :=
  if scalarTopBit s then raise .scalar s else .next (s.setP pd (fixedBase (scalarOf s)))

end Sys2Proof.Machine
end

