-- ==== Sys2Proof/Machine/Group.lean ====
section
/-! DEFINITION. Machine/Group.lean: the group commands (41_group.md R145 to R165). Only the commands
of R141's table check forms; PDEC alone writes CF (R140). -/

namespace Sys2Proof.Machine

/-! ## Data movement: no form checks (R158) -/

/-- PZERO pd: the identity in extended form (R159). -/
def execPzero (pd : PReg) (s : State) : Result := .next (s.setP pd identityP3)

/-- PMOV pd, pa: form and all four components (R160). -/
def execPmov (pd pa : PReg) (s : State) : Result := .next (s.setP pd (s.getP pa))

/-- PSETC pd, fa, cK: one component (R161). -/
def execPsetc (pd : PReg) (fa : FReg) (c : Component) (s : State) : Result :=
  .next (s.setP pd ((s.getP pd).put c (s.getF fa)))

/-- PGETC fd, pa, cK: one component, of a register of any form (R162). -/
def execPgetc (fd : FReg) (pa : PReg) (c : Component) (s : State) : Result :=
  .next (s.setF fd ((s.getP pa).get c))

/-- PFORM pd, tag: the form only (R165). -/
def execPform (pd : PReg) (form : Form) (s : State) : Result :=
  .next (s.setP pd { s.getP pd with form := form })

/-- PCMOV pd, pa: if CF = 1 then P[D] <- P[A] (R163). -/
def execPcmov (pd pa : PReg) (s : State) : Result :=
  .next (if s.cf then s.setP pd (s.getP pa) else s)

/-! ## Doubling and addition -/

/-- PDBL pd, pa (R145). -/
def execPdbl (pd pa : PReg) (s : State) : Result :=
  withForm (isP2orP3 (s.getP pa)) s (s.setP pd (dbl (s.getP pa)))

/-- PADD pd, pa, pb (R147). -/
def execPadd (pd pa pb : PReg) (s : State) : Result :=
  withForm (hasForm .P3 (s.getP pa) && hasForm .CACHED (s.getP pb)) s
    (s.setP pd (pAdd (s.getP pa) (s.getP pb)))

/-- PMADD pd, pa, pb (R146). -/
def execPmadd (pd pa pb : PReg) (s : State) : Result :=
  withForm (hasForm .P3 (s.getP pa) && hasForm .PRECOMP (s.getP pb)) s
    (s.setP pd (mAdd (s.getP pa) (s.getP pb)))

/-! ## Conversions -/

/-- PTOP2 pd, pa (R149). -/
def execPtop2 (pd pa : PReg) (s : State) : Result :=
  withForm (isP1P1orP3 (s.getP pa)) s (s.setP pd (toP2 (s.getP pa)))

/-- PTOP3 pd, pa (R150). -/
def execPtop3 (pd pa : PReg) (s : State) : Result :=
  withForm (hasForm .P1P1 (s.getP pa)) s (s.setP pd (toP3 (s.getP pa)))

/-- PTOCACHED pd, pa (R151). -/
def execPtocached (pd pa : PReg) (s : State) : Result :=
  withForm (hasForm .P3 (s.getP pa)) s (s.setP pd (toCached (s.getP pa)))

/-! ## Encode and decode -/

/-- PENC pa: DATA <- the encoding of P[A] (R153). -/
def execPenc (pa : PReg) (s : State) : Result :=
  withForm (isP2orP3 (s.getP pa)) s (s.setData (encodePoint (s.getP pa)))

/-- PDEC pd, m: the point DATA encodes, or its negation, with CF <- 1; CF <- 0 and P[D] unchanged
when DATA is no point, which is no error (R155). -/
def execPdec (pd : PReg) (mode : DecodeMode) (s : State) : Result :=
  .next (match decodePoint mode s.data with
    | some q => (s.setP pd q).setCF true
    | none => s.setCF false)

end Sys2Proof.Machine
end

