-- ==== Sys2Proof/Machine/Dispatch.lean ====
section
/-! DEFINITION. Machine/Dispatch.lean: the family rule of each command (30_encoding.md R80, last
line; R87), one arm per constructor. -/

namespace Sys2Proof.Machine

def exec (i : Instr) (s : State) : Host.Outcome State Fault Refusal :=
  match i with
  | .nop => Sys2Proof.Machine.execNop s
  | .fzero fd => Sys2Proof.Machine.execFzero fd s
  | .fone fd => Sys2Proof.Machine.execFone fd s
  | .fmov fd fa => Sys2Proof.Machine.execFmov fd fa s
  | .fconst fd k => Sys2Proof.Machine.execFconst fd k s
  | .fadd fd fa fb => Sys2Proof.Machine.execFadd fd fa fb s
  | .fsub fd fa fb => Sys2Proof.Machine.execFsub fd fa fb s
  | .fneg fd fa => Sys2Proof.Machine.execFneg fd fa s
  | .fmul fd fa fb => Sys2Proof.Machine.execFmul fd fa fb s
  | .fsq fd fa => Sys2Proof.Machine.execFsq fd fa s
  | .fsq2 fd fa => Sys2Proof.Machine.execFsq2 fd fa s
  | .finv fd fa => Sys2Proof.Machine.execFinv fd fa s
  | .fpow22523 fd fa => Sys2Proof.Machine.execFpow22523 fd fa s
  | .fsqrtr fd fa fb => Sys2Proof.Machine.execFsqrtr fd fa fb s
  | .fisneg fa => Sys2Proof.Machine.execFisneg fa s
  | .fiszero fa => Sys2Proof.Machine.execFiszero fa s
  | .fcmov fd fa => Sys2Proof.Machine.execFcmov fd fa s
  | .fld fd => Sys2Proof.Machine.execFld fd s
  | .fst fa => Sys2Proof.Machine.execFst fa s
  | .pzero pd => Sys2Proof.Machine.execPzero pd s
  | .pmov pd pa => Sys2Proof.Machine.execPmov pd pa s
  | .psetc pd fa c => Sys2Proof.Machine.execPsetc pd fa c s
  | .pgetc fd pa c => Sys2Proof.Machine.execPgetc fd pa c s
  | .pform pd form => Sys2Proof.Machine.execPform pd form s
  | .pdbl pd pa => Sys2Proof.Machine.execPdbl pd pa s
  | .padd pd pa pb => Sys2Proof.Machine.execPadd pd pa pb s
  | .pmadd pd pa pb => Sys2Proof.Machine.execPmadd pd pa pb s
  | .ptop2 pd pa => Sys2Proof.Machine.execPtop2 pd pa s
  | .ptop3 pd pa => Sys2Proof.Machine.execPtop3 pd pa s
  | .ptocached pd pa => Sys2Proof.Machine.execPtocached pd pa s
  | .pcmov pd pa => Sys2Proof.Machine.execPcmov pd pa s
  | .penc pa => Sys2Proof.Machine.execPenc pa s
  | .pdec pd mode => Sys2Proof.Machine.execPdec pd mode s
  | .psel pd pos dig => Sys2Proof.Machine.execPsel pd pos dig s
  | .smulb pd => Sys2Proof.Machine.execSmulb pd s
  | .setcf v => Sys2Proof.Machine.execSetcf v s

end Sys2Proof.Machine
end

