-- ==== Sys2Proof/Machine/Window.lean ====
section
/-! DEFINITION. Machine/Window.lean: the host's view: the 64-byte register window (10_state.md R30 to
R36) and what its reads and writes do (20_memory.md R53, R55). -/

namespace Sys2Proof.Machine

/-- The registers of the window (10_state.md R30). -/
inductive WindowReg where
  | id
  | ctrl
  | status
  | cmd
  | reserved
  | data (k : Fin 8)
deriving DecidableEq, Repr

/-- The register at word m of the window, offset 4m (10_state.md R30). -/
def windowReg (m : Nat) : Option WindowReg :=
  match m with
  | 0 => some .id
  | 1 => some .ctrl
  | 2 => some .status
  | 3 => some .cmd
  | 4 | 5 | 6 | 7 => some .reserved
  | 8 => some (.data 0)
  | 9 => some (.data 1)
  | 10 => some (.data 2)
  | 11 => some (.data 3)
  | 12 => some (.data 4)
  | 13 => some (.data 5)
  | 14 => some (.data 6)
  | 15 => some (.data 7)
  | _ => none

/-- The value of the ID register (10_state.md R31). -/
def idWord : Word := 0x25519001#32

/-- The host's read returned v: only the host's own record changes, since reads have no side effect
on the block (20_memory.md R55; log 2). -/
def State.returned (s : State) (v : Word) : State := { s with reads := v :: s.reads }

/-- A read of DATAk while BUSY = 1 returns the next free value (10_state.md R35, U1; log 3). -/
def State.returnedFree (s : State) : State :=
  { s with reads := Config.freeDataRead s.draws :: s.reads, draws := s.draws + 1 }

/-- A host read (10_state.md R31 to R36). -/
def readReg (r : WindowReg) (s : State) : State :=
  match r with
  | .id => s.returned idWord
  | .ctrl => s.returned (ctrlWord s)
  | .status => s.returned (statusWord s)
  | .cmd => s.returned 0#32
  | .reserved => s.returned 0#32
  | .data k => if s.busy then s.returnedFree else s.returned (dataWord s.data k)

/-- A write of CTRL: SRST = 1 is a soft reset, and then bit 0 is ignored; else IE <- bit 0
(10_state.md R32, 70_reset_and_hazards.md R242). -/
def writeCtrl (v : Word) (s : State) : State :=
  if v.getLsbD 1 then s.zeroise else { s with ie := v.getLsbD 0 }

/-- A write of STATUS: bit 1 clears DONE, bit 2 clears ERR and ERRCODE (10_state.md R33). -/
def writeStatus (v : Word) (s : State) : State :=
  let s := if v.getLsbD 1 then s.clearDone else s
  if v.getLsbD 2 then s.clearError else s

/-- A write of CMD: accepted when idle, discarded with E_BUSY when busy (10_state.md R34). -/
def writeCmd (v : Word) (s : State) : State :=
  if s.busy then s.recordError .busy else s.accept v

/-- A write of DATAk: four bytes when idle, discarded with E_BUSY when busy (10_state.md R35). -/
def writeData (k : Fin 8) (v : Word) (s : State) : State :=
  if s.busy then s.recordError .busy else s.setData (putDataWord s.data k v)

/-- A host write (10_state.md R31 to R36). ID and the reserved words ignore it without an error. -/
def writeReg (r : WindowReg) (v : Word) (s : State) : State :=
  match r with
  | .id => s
  | .ctrl => writeCtrl v s
  | .status => writeStatus v s
  | .cmd => writeCmd v s
  | .reserved => s
  | .data k => writeData k v s

/-- The effect of an access on a register. -/
def accessReg (r : WindowReg) (kind : AccessKind) (s : State) : State :=
  match kind with
  | .read => readReg r s
  | .write v => writeReg r v s

/-- A host access: only aligned 32-bit accesses of the window have a meaning; every other is
refused (20_memory.md R51, R53; logs 5 and 20). -/
def hostAccess (a : Access) (s : State) : Result :=
  if 0x40 ≤ a.off then .refused .outsideWindow
  else if a.bytes ≠ 4 then .refused .accessWidth
  else if a.off % 4 ≠ 0 then .refused .misaligned
  else
    match windowReg (a.off / 4) with
    | some r => .next (accessReg r a.kind s)
    | none => .refused .outsideWindow

/-- The access at a host physical address: its offset from CORE_BASE; none below CORE_BASE, where
the address does not belong to the block (20_memory.md R51; log 4). -/
def Access.atAddress (addr bytes : Nat) (kind : AccessKind) : Option Access :=
  if Config.coreBase ≤ addr then some ⟨addr - Config.coreBase, bytes, kind⟩ else none

end Sys2Proof.Machine
end

