-- ==== Sys2Proof/Machine/Agents.lean ====
section
/-! DEFINITION. Machine/Agents.lean: the moves of the agents (00_scope.md R17): the core's Complete
step (20_memory.md R66), the host's accesses (R54), and the reset input
(70_reset_and_hazards.md R240). -/

namespace Sys2Proof.Machine

/-- A meaning's answer, with the end of the Complete step after it (20_memory.md R66). -/
def finishResult : Result → Result
  | .next t => .next t.finish
  | .fault r => .fault r
  | .refused r => .refused r

/-- Execute(w) of 30_encoding.md R80: decode, then the family rule; a word that decodes to no
command raises E_ILLEGAL (R89). -/
def execute (w : Word) (s : State) : Result :=
  match decode w with
  | .ok i => exec i s
  | .error _ => raise .illegal s

/-- The Complete step (20_memory.md R66): Execute(PENDING), then BUSY <- 0 and DONE <- 1. -/
def complete (s : State) : Result := finishResult (execute s.pending s)

/-- The core's turn: Complete is enabled only when BUSY = 1; an idle block does nothing
(20_memory.md R66, R67, 60_exceptions.md R235; log 12). -/
def coreTurn (s : State) : Result := if s.busy then complete s else .next s

/-- One move of one agent. -/
def doMove (m : Move) (s : State) : Result :=
  match m with
  | .host a => hostAccess a s
  | .coreTurn => coreTurn s
  | .hardReset => .next s.zeroise
  | .otherMaster _ => .refused .otherMaster

/-- The next move is taken from the schedule; when the schedule is used up the core moves, so that a
pending command completes (weak fairness, 20_memory.md R66; log 1). -/
def nextMove (s : State) : Result :=
  match s.moves with
  | [] => coreTurn s
  | m :: rest => doMove m { s with moves := rest }

/-- An accepted command with the core's turn next: where step finds its next command (log 6). -/
def State.withPending (s : State) (w : Word) : State :=
  { s.accept w with moves := .coreTurn :: s.moves }

end Sys2Proof.Machine
end

