-- ==== Sys2Proof/Machine/Step.lean ====
section
/-! DEFINITION. Machine/Step.lean: one step of the machine is one move of one agent
(20_memory.md R54, R66), and where step finds its next command. -/

namespace Sys2Proof.Machine

/-- One step. -/
def step (s : State) : Host.Outcome State Fault Refusal := nextMove s

/-- `s` with the command word stored where step takes its next command: accepted into PENDING with
BUSY = 1, and the core's turn next (10_state.md R29, R34; log 6). Commands are 32 bits
(30_encoding.md R90); the bits from `nbits` up are zero. -/
def State.withFetchWord (s : State) (nbits w : Nat) : State :=
  s.withPending (BitVec.ofNat 32 (w % 2 ^ nbits))

end Sys2Proof.Machine
end

