-- ==== Sys2Proof/Safety.lean ====
section
/-! DEFINITION. Safety.lean: what the claims speak of and no command computes: the invariant of the
state (10_state.md R21, R23, 60_exceptions.md R210), a host that keeps the interface
(20_memory.md R53, R67), sequences of commands
(42_fixed_base.md R187), and the affine meaning of point registers with the curve's group law
(41_group.md R142, R143). -/

namespace Sys2Proof.Machine

/-! ## The invariant -/

/-- Every component is a residue in [0, p) (10_state.md R23). -/
abbrev PointReg.canonical (a : PointReg) : Prop :=
  a.c0 < prime ∧ a.c1 < prime ∧ a.c2 < prime ∧ a.c3 < prime

/-- Every field register and point component is canonical (10_state.md R21, R23). -/
abbrev State.canonical (s : State) : Prop :=
  (∀ i : FReg, s.f[i] < prime) ∧ ∀ i : PReg, (s.p[i]).canonical

/-- ERRCODE is a code of the table, and NONE exactly when ERR = 0 (60_exceptions.md R210). -/
abbrev State.errorCoherent (s : State) : Prop :=
  s.errcode.toNat ≤ 4 ∧ (s.err = false ↔ s.errcode = 0#8)

/-- The invariant every step keeps. -/
abbrev State.Inv (s : State) : Prop := s.canonical ∧ s.errorCoherent

/-! ## A host that keeps the interface -/

/-- An aligned 32-bit access of the window (20_memory.md R53). -/
abbrev Access.aligned32 (a : Access) : Prop := a.off < 0x40 ∧ a.bytes = 4 ∧ a.off % 4 = 0

/-- A move the spec gives a meaning: no access the model refuses (20_memory.md R53, R64, R67). -/
abbrev Move.legal : Move → Prop
  | .host a => a.aligned32
  | .coreTurn => True
  | .hardReset => True
  | .otherMaster _ => False

/-- Every move still to come is legal: the run is never refused. -/
abbrev State.safe (s : State) : Prop := ∀ m ∈ s.moves, m.legal

/-- The next move is the core's, and `rest` is what is left after it: the schedule says so, or it is
used up (log 1). -/
abbrev State.coreNext (s : State) (rest : List Move) : Prop :=
  s.moves = .coreTurn :: rest ∨ (s.moves = [] ∧ rest = [])

/-- The next move is the host's aligned 32-bit access at window offset `off`. -/
abbrev State.hostNext (s : State) (off : Nat) (kind : AccessKind) (rest : List Move) : Prop :=
  s.moves = .host ⟨off, 4, kind⟩ :: rest

/-- The block's own state, that of 10_state.md R20, is the same in both: they differ at most in the
model's own fields. -/
abbrev State.sameBlock (s t : State) : Prop :=
  t.f = s.f ∧ t.p = s.p ∧ t.cf = s.cf ∧ t.data = s.data ∧ t.busy = s.busy ∧
    t.pending = s.pending ∧ t.ie = s.ie ∧ t.done = s.done ∧ t.err = s.err ∧
    t.errcode = s.errcode

/-- Every piece of state holds its reset value (10_state.md R39). -/
abbrev State.holdsResetValues (t : State) : Prop :=
  (∀ i : FReg, t.f[i] = 0) ∧ (∀ i : PReg, t.p[i] = ⟨.NONE, 0, 0, 0, 0⟩) ∧ t.cf = false ∧
    t.data = 0#256 ∧ t.busy = false ∧ t.pending = 0#32 ∧ t.ie = false ∧ t.done = false ∧
    t.err = false ∧ t.errcode = 0#8 ∧ t.irq = false

/-! ## Commands one after another -/

/-- The effects of a list of commands, first one first (20_memory.md R61). -/
def execAll : List Instr → State → Result
  | [], s => .next s
  | i :: rest, s =>
    match exec i s with
    | .next t => execAll rest t
    | .fault r => .fault r
    | .refused r => .refused r

/-- One pass of the engine as commands, with the running sum in P[1] and the selection in P[2]: for
every position the digit e[2 pos + offset] is selected and added (42_fixed_base.md R187). -/
def passProgram (offset : Nat) (e : List Int) : List Instr :=
  (List.finRange 32).flatMap fun pos =>
    [.psel 2 pos (digit e (2 * pos.val + offset)), .pmadd 1 1 2, .ptop3 1 1]

/-- The engine's sequence as commands: the identity, the odd digits, four doublings, the even digits
(42_fixed_base.md R187). -/
def engineProgram (e : List Int) : List Instr :=
  .pzero 1 :: passProgram 1 e ++
    [.pdbl 1 1, .ptop2 1 1, .pdbl 1 1, .ptop2 1 1, .pdbl 1 1, .ptop2 1 1, .pdbl 1 1, .ptop3 1 1] ++
    passProgram 0 e

/-! ## Affine points and the group law (41_group.md R142, R143; 00_scope.md R14) -/

/-- An affine point. -/
structure Affine where
  x : Nat
  y : Nat
deriving DecidableEq, Repr

/-- -x^2 + y^2 = 1 + d x^2 y^2 over GF(p), on canonical coordinates. -/
abbrev Affine.onCurve (a : Affine) : Prop :=
  a.x < prime ∧ a.y < prime ∧
    fsub (fsq a.y) (fsq a.x) = fadd 1 (fmul constD (fmul (fsq a.x) (fsq a.y)))

/-- The identity (0, 1). -/
def Affine.zero : Affine := ⟨0, 1⟩

/-- The base point B (00_scope.md R14). -/
def Affine.base : Affine := ⟨baseX, baseY⟩

/-- L, the order of B (00_scope.md R14). -/
def groupOrder : Nat := 7237005577332262213973186563042994240857116359379907606001950938285454250989

/-- -(x, y) = (-x, y). -/
def Affine.neg (a : Affine) : Affine := ⟨fneg a.x, a.y⟩

/-- d x1 x2 y1 y2, the product both denominators of the group law hold. -/
def Affine.cross (a b : Affine) : Nat := fmul constD (fmul (fmul a.x b.x) (fmul a.y b.y))

/-- The group law, division being multiplication by the inverse (41_group.md R143). -/
def Affine.add (a b : Affine) : Affine where
  x := fmul (fadd (fmul a.x b.y) (fmul a.y b.x)) (finv (fadd 1 (a.cross b)))
  y := fmul (fadd (fmul a.y b.y) (fmul a.x b.x)) (finv (fsub 1 (a.cross b)))

/-- k P, the k-fold sum of P under the group law (20_memory.md R58). -/
def Affine.times (a : Affine) : Nat → Affine
  | 0 => .zero
  | k + 1 => (a.times k).add a

/-- aff(R), the affine point a register's value represents (41_group.md R142); the identity for a
register that represents none. -/
def PointReg.aff (a : PointReg) : Affine :=
  match a.form with
  | .NONE => .zero
  | .P2 => ⟨fmul a.c0 (finv a.c2), fmul a.c1 (finv a.c2)⟩
  | .P3 => ⟨fmul a.c0 (finv a.c2), fmul a.c1 (finv a.c2)⟩
  | .P1P1 => ⟨fmul a.c0 (finv a.c2), fmul a.c1 (finv a.c3)⟩
  | .PRECOMP => ⟨fmul (fsub a.c0 a.c1) (finv 2), fmul (fadd a.c0 a.c1) (finv 2)⟩
  | .CACHED =>
      ⟨fmul (fmul (fsub a.c0 a.c1) (finv 2)) (finv a.c2),
        fmul (fmul (fadd a.c0 a.c1) (finv 2)) (finv a.c2)⟩

/-- A valid value: the last column of 41_group.md R142, on canonical components. -/
abbrev PointReg.valid (a : PointReg) : Prop :=
  a.canonical ∧
    match a.form with
    | .NONE => False
    | .P2 => a.c2 ≠ 0 ∧ a.aff.onCurve
    | .P3 => a.c2 ≠ 0 ∧ a.aff.onCurve ∧ fmul a.c0 a.c1 = fmul a.c2 a.c3
    | .P1P1 => a.c2 ≠ 0 ∧ a.c3 ≠ 0 ∧ a.aff.onCurve
    | .PRECOMP => a.aff.onCurve ∧ a.c2 = fmul constD2 (fmul a.aff.x a.aff.y)
    | .CACHED =>
        a.c2 ≠ 0 ∧ a.aff.onCurve ∧
          fmul constD2 (fmul (fmul (fsub a.c0 a.c1) (finv 2)) (fmul (fadd a.c0 a.c1) (finv 2))) =
            fmul a.c2 a.c3

end Sys2Proof.Machine
end

