-- ==== Sys2Proof/Certificates/Slice0/Obligations.lean ====
section
/-! DEFINITION. Certificates/Slice0/Obligations.lean: the statements for the provers. Each docstring
names the rules of spec/ it formalises or rests on. -/

open Sys2Proof Sys2Proof.Machine

/-- For every well-formed command i, with every operand at every value its encoding admits, decode
(encode i) = i. (R80, R81, R82, R83, R85, R86, R87) -/
def Obligations.DecodeInvertsEncode : Prop :=
  ∀ i : Instr, i.wellFormed = true → decode (encode i) = .ok i

/-- For every 32-bit word w, if w decodes to i, then i is well-formed and w is the word encode gives
i: so each legal word has one meaning and each command one word. (R80, R87, R88) -/
def Obligations.EncodeInvertsDecode : Prop :=
  ∀ (w : Word) (i : Instr), decode w = .ok i → i.wellFormed = true ∧ encode i = w

/-- The fourteen words of the example table of R91 decode to the commands written beside them. (R91) -/
def Obligations.ExampleWordsDecode : Prop :=
  decode 0x00021308#32 = .ok (.fadd 3 1 2) ∧ decode 0x0000500E#32 = .ok (.finv 0 5) ∧
    decode 0x00004012#32 = .ok (.fiszero 4) ∧ decode 0x00200704#32 = .ok (.fconst 7 .sqrtm1) ∧
    decode 0x00309122#32 = .ok (.psetc 1 9 .c3) ∧ decode 0x00106223#32 = .ok (.pgetc 2 6 .c1) ∧
    decode 0x00200024#32 = .ok (.pform 0 .P3) ∧ decode 0x0005222A#32 = .ok (.pmadd 2 2 5) ∧
    decode 0x00100431#32 = .ok (.pdec 4 .negated) ∧ decode 0x0031F338#32 = .ok (.psel 3 31 (-8)) ∧
    decode 0x00100038#32 = .ok (.psel 0 0 8) ∧ decode 0x00000039#32 = .ok (.smulb 0) ∧
    decode 0x0010003E#32 = .ok (.setcf true) ∧ decode 0x00000000#32 = .ok .nop

/-- When the core takes its turn with BUSY = 1 and PENDING decodes to no command, the step sets ERR,
ERRCODE = 0x02, DONE and clears BUSY, and every other field keeps its value (the turn is used
up). And the only word that decodes to NOP is 0x00000000. (R89) -/
def Obligations.IllegalWordRaisesIllegal : Prop :=
  (∀ (s : State) (rest : List Move) (e : DecodeError), s.coreNext rest → s.busy = true →
      decode s.pending = .error e →
      step s = .next { s with
        moves := rest, err := true, errcode := 0x02#8, busy := false, done := true }) ∧
    ∀ w : Word, decode w = .ok .nop → w = 0x00000000#32

/-- A word whose opcode takes a point register in D, A or B (the lists are the rows of R87 with P in
that column) and whose field there has bit 3 set decodes to an error; a PSEL word whose DIG,
read as signed, is outside -8..8 decodes to an error; and a word whose opcode is none of the 36
of R87 decodes to an error. (R80, R85, R86, R87, R89) -/
def Obligations.IllegalFieldsAreRejected : Prop :=
  ∀ w : Word,
    ((opField w).toNat ∈ [0x20, 0x21, 0x22, 0x24, 0x28, 0x29, 0x2A, 0x2C, 0x2D, 0x2E, 0x2F, 0x31,
        0x38, 0x39] → (dField w).getLsbD 3 = true → ∃ e, decode w = .error e) ∧
    ((opField w).toNat ∈ [0x21, 0x23, 0x28, 0x29, 0x2A, 0x2C, 0x2D, 0x2E, 0x2F, 0x30] →
        (aField w).getLsbD 3 = true → ∃ e, decode w = .error e) ∧
    ((opField w).toNat ∈ [0x29, 0x2A] → (bField w).getLsbD 3 = true → ∃ e, decode w = .error e) ∧
    ((opField w).toNat = 0x38 → ((digField w).toInt < -8 ∨ 8 < (digField w).toInt) →
        ∃ e, decode w = .error e) ∧
    ((opField w).toNat ∉ [0x00, 0x01, 0x02, 0x03, 0x04, 0x08, 0x09, 0x0A, 0x0B, 0x0C, 0x0D, 0x0E,
        0x0F, 0x10, 0x11, 0x12, 0x13, 0x18, 0x19, 0x20, 0x21, 0x22, 0x23, 0x24, 0x28, 0x29, 0x2A,
        0x2C, 0x2D, 0x2E, 0x2F, 0x30, 0x31, 0x38, 0x39, 0x3E] → ∃ e, decode w = .error e)

/-- When the next move is the core's (rest being left after it), BUSY = 1 and PENDING decodes to i,
and exec i, at the state with that move taken, answers t, then step answers t with BUSY cleared
and DONE set. (R66, R80, R61) -/
def Obligations.StepRunsDecodedCommand : Prop :=
  ∀ (s t : State) (rest : List Move) (i : Instr), s.coreNext rest → s.busy = true →
    decode s.pending = .ok i → exec i { s with moves := rest } = .next t →
    step s = .next { t with busy := false, done := true }

/-- If the word w decodes to i and exec i, at s with BUSY = 1 and PENDING = w, answers t, then step
at withFetchWord answers t with BUSY cleared and DONE set. How a program comes to run is log 6.
(R29, R34, R66) -/
def Obligations.FetchWordRunsNext : Prop :=
  ∀ (s t : State) (w : Nat) (i : Instr), decode (BitVec.ofNat 32 w) = .ok i →
    exec i { s with busy := true, pending := BitVec.ofNat 32 w } = .next t →
    step (s.withFetchWord 32 w) = .next { t with busy := false, done := true }

/-- For every state with BUSY = 1 whose next move is the core's, step answers a next state with BUSY
= 0 and DONE = 1; and a host write of CMD or DATAk while BUSY = 1 leaves DONE and BUSY as they
were. (R211) -/
def Obligations.CompleteClearsBusyAndSetsDone : Prop :=
  (∀ (s : State) (rest : List Move), s.coreNext rest → s.busy = true →
      ∃ t, step s = .next t ∧ t.busy = false ∧ t.done = true) ∧
    ∀ (s : State) (rest : List Move) (off : Nat) (v : Word), s.busy = true →
      s.hostNext off (.write v) rest → off ∈ [0x0C, 0x20, 0x24, 0x28, 0x2C, 0x30, 0x34, 0x38, 0x3C] →
      ∃ t, step s = .next t ∧ t.done = s.done ∧ t.busy = true

/-- An idle core turn changes nothing but the schedule. And for every step that is neither the
core's turn with BUSY = 1, nor a hard reset, nor a host write of CTRL with SRST = 1: F, P and CF
are unchanged, and DATA is unchanged unless the move is a host write of DATAk with BUSY = 0.
(R66, R67) -/
def Obligations.ResultsChangeOnlyByCommandOrHost : Prop :=
  (∀ (s : State) (rest : List Move), s.coreNext rest → s.busy = false →
      step s = .next { s with moves := rest }) ∧
    ∀ (s t : State) (m : Move) (rest : List Move), s.moves = m :: rest → step s = .next t →
      ¬ (m = .coreTurn ∧ s.busy = true) → m ≠ .hardReset →
      (∀ v : Word, v.getLsbD 1 = true → m ≠ .host ⟨0x04, 4, .write v⟩) →
      t.f = s.f ∧ t.p = s.p ∧ t.cf = s.cf ∧
        (t.data ≠ s.data → s.busy = false ∧
          ∃ (k : Fin 8) (v : Word), m = .host ⟨0x20 + 4 * k.val, 4, .write v⟩)

/-- If BUSY = 1, every aligned host write of the window other than a write of CTRL with bit 1 set
answers a state with BUSY = 1 and the same PENDING, so it neither changes nor drops the accepted
command. If BUSY = 1 before and after any step, PENDING is unchanged by it. And the command a
Complete step executes is the one PENDING encodes. Table and constants are no part of State, so
no step changes them. (R65) -/
def Obligations.PendingFixedWhileBusy : Prop :=
  (∀ (s : State) (off : Nat) (v : Word) (rest : List Move), s.busy = true → off < 0x40 →
      off % 4 = 0 → (off = 0x04 → v.getLsbD 1 = false) → s.hostNext off (.write v) rest →
      ∃ t, step s = .next t ∧ t.busy = true ∧ t.pending = s.pending) ∧
    (∀ s t : State, s.busy = true → step s = .next t → t.busy = true → t.pending = s.pending) ∧
    ∀ (s t : State) (rest : List Move) (i : Instr), s.coreNext rest → s.busy = true →
      i.wellFormed = true → s.pending = encode i → exec i { s with moves := rest } = .next t →
      step s = .next { t with busy := false, done := true }

/-- For every command i and state s, exec i s answers a next state t in which BUSY, PENDING,
CTRL.IE, DONE and the model's own fields are those of s. (R12, R20, R27, R66) -/
def Obligations.EveryCommandCompletesInItsFrame : Prop :=
  ∀ (i : Instr) (s : State), ∃ t, exec i s = .next t ∧ t.busy = s.busy ∧ t.pending = s.pending ∧
    t.ie = s.ie ∧ t.done = s.done ∧ t.moves = s.moves ∧ t.reads = s.reads ∧ t.draws = s.draws

/-- A command other than FISNEG, FISZERO, FSQRTR, PDEC and SETCF leaves CF unchanged; the effect on
F, P, DATA, ERR and ERRCODE of a command other than FCMOV and PCMOV does not depend on CF, and
neither does the CF that FISNEG, FISZERO, FSQRTR, PDEC and SETCF write; bit 3 of STATUS reads
CF. (R24) -/
def Obligations.OnlyFlagCommandsTouchCF : Prop :=
  (∀ (i : Instr) (s t : State), exec i s = .next t → (∀ a, i ≠ .fisneg a) → (∀ a, i ≠ .fiszero a) →
      (∀ d a b, i ≠ .fsqrtr d a b) → (∀ d m, i ≠ .pdec d m) → (∀ v, i ≠ .setcf v) →
      t.cf = s.cf) ∧
    (∀ (i : Instr) (s t u : State) (b : Bool), (∀ d a, i ≠ .fcmov d a) → (∀ d a, i ≠ .pcmov d a) →
      exec i s = .next t → exec i { s with cf := b } = .next u →
      u.f = t.f ∧ u.p = t.p ∧ u.data = t.data ∧ u.err = t.err ∧ u.errcode = t.errcode ∧
        ((∃ a, i = .fisneg a) ∨ (∃ a, i = .fiszero a) ∨ (∃ d a b, i = .fsqrtr d a b) ∨
          (∃ d m, i = .pdec d m) ∨ (∃ v, i = .setcf v) → u.cf = t.cf)) ∧
    ∀ s : State, (statusWord s).getLsbD 3 = s.cf

/-- A command other than FST and PENC leaves all 256 bits of DATA unchanged, FLD, PDEC and SMULB
among them. (R25, R248) -/
def Obligations.OnlyFstAndPencWriteData : Prop :=
  ∀ (i : Instr) (s t : State), exec i s = .next t → (∀ a, i ≠ .fst a) → (∀ a, i ≠ .penc a) →
    t.data = s.data

/-- When exec answers t: a field register other than the D of a command with a field destination
(FZERO, FONE, FMOV, FCONST, FADD, FSUB, FNEG, FMUL, FSQ, FSQ2, FINV, FPOW22523, FSQRTR, FCMOV,
FLD, PGETC) is unchanged, all of them for every other command; a point register other than the D
of a command with a point destination (PZERO, PMOV, PSETC, PFORM, PDBL, PADD, PMADD, PTOP2,
PTOP3, PTOCACHED, PCMOV, PDEC, PSEL, SMULB) is unchanged, all of them for every other command.
(R12, R27, R100, R140) -/
def Obligations.CommandWritesOnlyItsDestination : Prop :=
  ∀ (i : Instr) (s t : State), exec i s = .next t →
    (∀ r : FReg, t.f[r] ≠ s.f[r] →
      i = .fzero r ∨ i = .fone r ∨ (∃ a, i = .fmov r a) ∨ (∃ k, i = .fconst r k) ∨
      (∃ a b, i = .fadd r a b) ∨ (∃ a b, i = .fsub r a b) ∨ (∃ a, i = .fneg r a) ∨
      (∃ a b, i = .fmul r a b) ∨ (∃ a, i = .fsq r a) ∨ (∃ a, i = .fsq2 r a) ∨
      (∃ a, i = .finv r a) ∨ (∃ a, i = .fpow22523 r a) ∨ (∃ a b, i = .fsqrtr r a b) ∨
      (∃ a, i = .fcmov r a) ∨ i = .fld r ∨ ∃ a c, i = .pgetc r a c) ∧
    ∀ r : PReg, t.p[r] ≠ s.p[r] →
      i = .pzero r ∨ (∃ a, i = .pmov r a) ∨ (∃ a c, i = .psetc r a c) ∨ (∃ g, i = .pform r g) ∨
      (∃ a, i = .pdbl r a) ∨ (∃ a b, i = .padd r a b) ∨ (∃ a b, i = .pmadd r a b) ∨
      (∃ a, i = .ptop2 r a) ∨ (∃ a, i = .ptop3 r a) ∨ (∃ a, i = .ptocached r a) ∨
      (∃ a, i = .pcmov r a) ∨ (∃ m, i = .pdec r m) ∨ (∃ pos dig, i = .psel r pos dig) ∨
      i = .smulb r

/-- For every command and state, whatever ERR and ERRCODE hold: run with ERR and ERRCODE clear, the
command either leaves them clear, and then in the state itself it does the same to everything
else and leaves ERR and ERRCODE as they were; or it answers only ERR = 1 and ERRCODE one of
0x02, 0x03, 0x04, and then in the state itself it answers the state with ERR = 1 and that
ERRCODE and every other field unchanged. A host write of CMD or DATAk while BUSY = 1 gives s
with the move taken, ERR = 1 and ERRCODE = 0x01, every other field unchanged. In both cases the
new code stands whatever ERR was before. (R212) -/
def Obligations.ErrorsArePrecise : Prop :=
  (∀ (i : Instr) (s : State), ∃ t, exec i { s with err := false, errcode := 0x00#8 } = .next t ∧
      ((t.err = false ∧ t.errcode = 0x00#8 ∧
          exec i s = .next { t with err := s.err, errcode := s.errcode }) ∨
        ∃ c ∈ [0x02#8, 0x03#8, 0x04#8], t = { s with err := true, errcode := c } ∧
          exec i s = .next { s with err := true, errcode := c })) ∧
    ∀ (s : State) (rest : List Move) (off : Nat) (v : Word), s.busy = true →
      s.hostNext off (.write v) rest → off ∈ [0x0C, 0x20, 0x24, 0x28, 0x2C, 0x30, 0x34, 0x38, 0x3C] →
      step s = .next { s with moves := rest, err := true, errcode := 0x01#8 }

/-- Two states that agree on every form tag, on bit 255 of DATA and on ERR and ERRCODE give, for the
same command, the same ERR and ERRCODE, whatever the field values, components and CF are. (R141,
R190, R214) -/
def Obligations.ErrorsDoNotDependOnValues : Prop :=
  ∀ (i : Instr) (s u t v : State), (∀ r : PReg, (s.p[r]).form = (u.p[r]).form) →
    s.data.getLsbD 255 = u.data.getLsbD 255 → s.err = u.err → s.errcode = u.errcode →
    exec i s = .next t → exec i u = .next v → t.err = v.err ∧ t.errcode = v.errcode

/-- If every field register and point component is below p, ERRCODE is at most 4, and ERRCODE is 0
exactly when ERR = 0, then after any step that answers a next state all of that holds again.
(R21, R23, R210, R66) -/
def Obligations.StepKeepsInvariant : Prop :=
  ∀ s t : State, s.Inv → step s = .next t → t.Inv

/-- The reset state has every register and component below p and ERRCODE coherent with ERR. (R39) -/
def Obligations.ResetMeetsInvariant : Prop :=
  State.reset.Inv

/-- From every state whose moves still to come are core turns, resets and aligned 32-bit accesses of
the window by the one host, any number of steps answers a next state, again with such moves
only. (R53, R66, R67, R216) -/
def Obligations.SafeRunsNeverStop : Prop :=
  ∀ (n : Nat) (s : State), s.safe →
    ∃ t : State, Sys2Proof.core.run n s = .next t ∧ t.safe

/-- A read of ID returns 0x25519001 and a write to it changes nothing but the schedule; STATUS reads
BUSY, DONE, ERR, CF in bits 0 to 3, zero in 7:4, ERRCODE in 15:8 and zero in 31:16, a write of
it with bit 1 clears DONE and with bit 2 clears ERR and ERRCODE and does nothing else, busy or
not; a reserved offset reads 0 and a write to it changes nothing but the schedule; CTRL reads IE
in bit 0 and zero elsewhere, CMD reads 0. A read changes nothing but the schedule and the host's
record. (R31, R33, R36) -/
def Obligations.WindowReadValues : Prop :=
  (∀ (s : State) (rest : List Move), s.hostNext 0x00 .read rest →
      step s = .next { s with moves := rest, reads := 0x25519001#32 :: s.reads }) ∧
    (∀ (s : State) (rest : List Move) (v : Word) (off : Nat), off ∈ [0x00, 0x10, 0x14, 0x18, 0x1C] →
      s.hostNext off (.write v) rest → step s = .next { s with moves := rest }) ∧
    (∀ (s : State) (rest : List Move) (off : Nat), off ∈ [0x0C, 0x10, 0x14, 0x18, 0x1C] →
      s.hostNext off .read rest →
      step s = .next { s with moves := rest, reads := 0x00000000#32 :: s.reads }) ∧
    (∀ (s : State) (rest : List Move), s.hostNext 0x04 .read rest →
      step s = .next { s with
        moves := rest, reads := (if s.ie then 0x00000001#32 else 0x00000000#32) :: s.reads }) ∧
    (∀ (s : State) (rest : List Move), s.hostNext 0x08 .read rest → ∃ v : Word,
      step s = .next { s with moves := rest, reads := v :: s.reads } ∧
        v.getLsbD 0 = s.busy ∧ v.getLsbD 1 = s.done ∧ v.getLsbD 2 = s.err ∧ v.getLsbD 3 = s.cf ∧
        v.extractLsb' 4 4 = 0#4 ∧ v.extractLsb' 8 8 = s.errcode ∧ v.extractLsb' 16 16 = 0#16) ∧
    ∀ (s : State) (rest : List Move) (v : Word), s.hostNext 0x08 (.write v) rest →
      step s = .next { s with
        moves := rest
        done := if v.getLsbD 1 then false else s.done
        err := if v.getLsbD 2 then false else s.err
        errcode := if v.getLsbD 2 then 0x00#8 else s.errcode }

/-- A host write of w at offset 0x0C gives, when BUSY = 0, PENDING = w and BUSY = 1, whatever w is,
nothing else changed; when BUSY = 1, ERR = 1 and ERRCODE = 0x01, nothing else changed. A read of
it returns 0x00000000. (R34) -/
def Obligations.CmdWriteAcceptsOrRecordsBusy : Prop :=
  ∀ (s : State) (rest : List Move) (w : Word),
    (s.hostNext 0x0C (.write w) rest → s.busy = false →
      step s = .next { s with moves := rest, pending := w, busy := true }) ∧
    (s.hostNext 0x0C (.write w) rest → s.busy = true →
      step s = .next { s with moves := rest, err := true, errcode := 0x01#8 }) ∧
    (s.hostNext 0x0C .read rest →
      step s = .next { s with moves := rest, reads := 0x00000000#32 :: s.reads })

/-- While BUSY = 0 a read of DATAk returns the word whose byte j is byte 4k+j of DATA, and a write
of v replaces exactly those four bytes. While BUSY = 1 a write is discarded with E_BUSY, and a
read returns the model's next free value (any value; this form is the model's choice, log 3,
DESIGN CHOICE) and changes nothing of the block. (R25, R35, R246) -/
def Obligations.DataWordsReadAndWrite : Prop :=
  ∀ (s : State) (rest : List Move) (k : Fin 8),
    (s.hostNext (0x20 + 4 * k.val) .read rest → s.busy = false → ∃ v : Word,
      step s = .next { s with moves := rest, reads := v :: s.reads } ∧
        ∀ j : Fin 4, v.extractLsb' (8 * j.val) 8 = s.data.extractLsb' (8 * (4 * k.val + j.val)) 8) ∧
    (∀ v : Word, s.hostNext (0x20 + 4 * k.val) (.write v) rest → s.busy = false → ∃ b : Buffer,
      step s = .next { s with moves := rest, data := b } ∧
        (∀ j : Fin 4, b.extractLsb' (8 * (4 * k.val + j.val)) 8 = v.extractLsb' (8 * j.val) 8) ∧
        ∀ i : Fin 32, i.val / 4 ≠ k.val → b.extractLsb' (8 * i.val) 8 = s.data.extractLsb' (8 * i.val) 8) ∧
    (∀ v : Word, s.hostNext (0x20 + 4 * k.val) (.write v) rest → s.busy = true →
      step s = .next { s with moves := rest, err := true, errcode := 0x01#8 }) ∧
    (s.hostNext (0x20 + 4 * k.val) .read rest → s.busy = true →
      step s = .next { s with
        moves := rest, reads := Config.freeDataRead s.draws :: s.reads, draws := s.draws + 1 })

/-- For every state and every aligned 32-bit read of the window, busy or not, step answers a next
state in which every piece of the block's state (R20) is unchanged and the host's record has one
more value. (R55, R53) -/
def Obligations.ReadsLeaveTheBlockUnchanged : Prop :=
  ∀ (s : State) (rest : List Move) (off : Nat), off < 0x40 → off % 4 = 0 → s.hostNext off .read rest →
    ∃ t, step s = .next t ∧ s.sameBlock t ∧ t.moves = rest ∧ ∃ v, t.reads = v :: s.reads

/-- A host write of v at offset 0x04, busy or not: with bit 1 clear, IE takes bit 0 and nothing else
changes; with bit 1 set, every piece of state takes its reset value. Bits 31:2 of v are ignored.
A read of CTRL returns IE in bit 0, and 0 in every other bit. (R32) -/
def Obligations.CtrlWriteSetsEnableOrResets : Prop :=
  ∀ (s : State) (rest : List Move) (v : Word),
    (s.hostNext 0x04 (.write v) rest → v.getLsbD 1 = false →
      step s = .next { s with moves := rest, ie := v.getLsbD 0 }) ∧
    (s.hostNext 0x04 (.write v) rest → v.getLsbD 1 = true →
      ∃ t, step s = .next t ∧ t.holdsResetValues ∧ t.moves = rest) ∧
    (s.hostNext 0x04 .read rest →
      step s = .next { s with
        moves := rest, reads := (if s.ie then 0x00000001#32 else 0x00000000#32) :: s.reads })

/-- From every state, a host write of CTRL with bit 1 set gives exactly the state a hard reset gives
in its place: every register at its reset value, CTRL.IE = 0 even when bit 0 of the write is 1,
STATUS = 0x00000000, and BUSY = 0, so that a core turn that follows changes nothing. (R242) -/
def Obligations.SoftResetAbandonsTheCommand : Prop :=
  ∀ (s : State) (rest : List Move) (v : Word), s.hostNext 0x04 (.write v) rest → v.getLsbD 1 = true →
    ∃ t, step s = .next t ∧ step { s with moves := .hardReset :: rest } = .next t ∧
      t.holdsResetValues ∧ statusWord t = 0x00000000#32 ∧ t.moves = rest ∧
      coreTurn t = .next t

/-- The reset state, and the state any state reaches by a hard reset, hold F = 0, P = (NONE, 0, 0,
0, 0), CF, DATA, BUSY, PENDING, IE, DONE, ERR, ERRCODE all 0 and IRQ = 0. (R39, R240, R241) -/
def Obligations.ResetGivesResetValues : Prop :=
  State.reset.holdsResetValues ∧
    ∀ (s : State) (rest : List Move), s.moves = .hardReset :: rest →
      ∃ t, step s = .next t ∧ t.holdsResetValues ∧ t.moves = rest

/-- A host access at an offset below 0x40 that is not 4 bytes wide, or whose offset is not a
multiple of 4, is refused; an access at CORE_BASE + off with off at least 0x40 is refused as
outside the window, whatever its width and alignment (offsets and the order of the checks are
the model's choice, logs 4, 5 and 20); CORE_BASE is a multiple of 0x40; an access by another
host agent or bus master is refused; and each aligned 32-bit access of the window is answered.
(R51, R53, R64) -/
def Obligations.OtherAccessesAreRefused : Prop :=
  (∀ (s : State) (a : Access) (rest : List Move), s.moves = .host a :: rest → a.off < 0x40 →
      (a.bytes ≠ 4 ∨ a.off % 4 ≠ 0) → ∃ r : Refusal, step s = .refused r) ∧
    (∀ (s : State) (a : Access) (off bytes : Nat) (kind : AccessKind) (rest : List Move),
      Access.atAddress (Config.coreBase + off) bytes kind = some a → s.moves = .host a :: rest →
      0x40 ≤ off → step s = .refused .outsideWindow) ∧
    Config.coreBase % 0x40 = 0 ∧
    (∀ (s : State) (a : Access) (rest : List Move), s.moves = .otherMaster a :: rest →
      step s = .refused .otherMaster) ∧
    ∀ (s : State) (a : Access) (rest : List Move), s.moves = .host a :: rest → a.aligned32 →
      ∃ t, step s = .next t ∧ t.moves = rest

/-- IRQ = IE and (DONE or ERR) in every state. If IRQ rises at a step, then IE was 1 and the step
set DONE or ERR, or the step is a host write of CTRL that set IE. If IRQ falls at a step, the
step is a host write of STATUS that left both DONE and ERR clear, a host write of CTRL that
cleared IE or reset the block, or a hard reset. (R220) -/
def Obligations.IrqRisesAndFallsOnlyAsStated : Prop :=
  (∀ s : State, s.irq = (s.ie && (s.done || s.err))) ∧
    (∀ (s t : State), step s = .next t → s.irq = false → t.irq = true →
      (s.ie = true ∧ ((s.done = false ∧ t.done = true) ∨ (s.err = false ∧ t.err = true))) ∨
        (s.ie = false ∧ ∃ (v : Word) (rest : List Move), s.hostNext 0x04 (.write v) rest)) ∧
    ∀ (s t : State), step s = .next t → s.irq = true → t.irq = false →
      (∃ rest, s.moves = .hardReset :: rest) ∨
        (∃ (v : Word) (rest : List Move), s.hostNext 0x04 (.write v) rest ∧ t.ie = false) ∨
        ∃ (v : Word) (rest : List Move), s.hostNext 0x08 (.write v) rest ∧ t.done = false ∧ t.err = false

/-- If a step takes ERR from 1 to 0, it is a host write of STATUS with bit 2 set, a host write of
CTRL with bit 1 set, or a hard reset. And the effect of every command on F, P, CF and DATA is
the same whatever ERR and ERRCODE hold. (R216) -/
def Obligations.ErrIsStickyAndStopsNothing : Prop :=
  (∀ (s t : State), step s = .next t → s.err = true → t.err = false →
      (∃ (v : Word) (rest : List Move), s.hostNext 0x08 (.write v) rest ∧ v.getLsbD 2 = true) ∨
        (∃ (v : Word) (rest : List Move), s.hostNext 0x04 (.write v) rest ∧ v.getLsbD 1 = true) ∨
        ∃ rest, s.moves = .hardReset :: rest) ∧
    ∀ (i : Instr) (s : State) (b : Bool) (c : Byte), ∃ t u, exec i s = .next t ∧
      exec i { s with err := b, errcode := c } = .next u ∧
      u.f = t.f ∧ u.p = t.p ∧ u.cf = t.cf ∧ u.data = t.data

/-- exec of NOP answers the state unchanged, and with the core's turn next, BUSY = 1 and PENDING =
0x00000000 the step changes only BUSY, DONE and the schedule; exec of SETCF v answers the state
with CF = v and nothing else changed. (R200, R201) -/
def Obligations.ControlCommandsComplete : Prop :=
  (∀ s : State, exec .nop s = .next s) ∧
    (∀ (s : State) (rest : List Move), s.coreNext rest → s.busy = true → s.pending = 0x00000000#32 →
      step s = .next { s with moves := rest, busy := false, done := true }) ∧
    ∀ (v : Bool) (s : State), exec (.setcf v) s = .next { s with cf := v }

/-- Each answers the state with F[D] the constant (d and D2 = 2d mod p and SQRTM1 as R14 lists them;
D2 is 2d mod p, SQRTM1 is even and its square is -1 mod p) and nothing else changed. (R101,
R102, R104) -/
def Obligations.ConstantCommandsLoad : Prop :=
  ∀ (fd : FReg) (s : State),
    exec (.fzero fd) s = .next { s with f := s.f.set fd 0 } ∧
    exec (.fone fd) s = .next { s with f := s.f.set fd 1 } ∧
    exec (.fconst fd .d) s = .next { s with f := (s.f.set fd
      37095705934669439343138083508754565189542113879843219016388785533085940283555) } ∧
    exec (.fconst fd .d2) s = .next { s with f := (s.f.set fd
      (2 * 37095705934669439343138083508754565189542113879843219016388785533085940283555 % prime)) } ∧
    exec (.fconst fd .sqrtm1) s = .next { s with f := (s.f.set fd
      19681161376707505956807079304988542015446066515923890162744021073123829784752) } ∧
    19681161376707505956807079304988542015446066515923890162744021073123829784752 ^ 2 % prime =
      prime - 1

/-- FMOV answers the state with F[D] = F[A]; FCMOV answers that when CF = 1, and the state unchanged
when CF = 0; CF itself is unchanged. (R103, R117) -/
def Obligations.FieldMovesCopy : Prop :=
  ∀ (fd fa : FReg) (s : State),
    exec (.fmov fd fa) s = .next { s with f := s.f.set fd s.f[fa] } ∧
    (s.cf = true → exec (.fcmov fd fa) s = .next { s with f := s.f.set fd s.f[fa] }) ∧
    (s.cf = false → exec (.fcmov fd fa) s = .next s)

/-- Each answers the state with F[D] = v and nothing else changed, where v is the residue in [0, p)
of F[A] + F[B], F[A] - F[B], -F[A] over the integers; the operands are read before F[D] is
written, so any of the registers may coincide. (R105, R106, R107) -/
def Obligations.AdditiveCommandsCompute : Prop :=
  ∀ (fd fa fb : FReg) (s : State), ∃ x y z : Nat, x < prime ∧ y < prime ∧ z < prime ∧
    (x : Int) = ((s.f[fa] : Int) + s.f[fb]) % prime ∧
    (y : Int) = ((s.f[fa] : Int) - s.f[fb]) % prime ∧ (z : Int) = (-(s.f[fa] : Int)) % prime ∧
    exec (.fadd fd fa fb) s = .next { s with f := s.f.set fd x } ∧
    exec (.fsub fd fa fb) s = .next { s with f := s.f.set fd y } ∧
    exec (.fneg fd fa) s = .next { s with f := s.f.set fd z }

/-- Each answers the state with F[D] = F[A] F[B] mod p, F[A]^2 mod p, 2 F[A]^2 mod p, and nothing
else changed. (R108, R109, R110) -/
def Obligations.MultiplicativeCommandsCompute : Prop :=
  ∀ (fd fa fb : FReg) (s : State),
    exec (.fmul fd fa fb) s = .next { s with f := s.f.set fd (s.f[fa] * s.f[fb] % prime) } ∧
    exec (.fsq fd fa) s = .next { s with f := s.f.set fd (s.f[fa] * s.f[fa] % prime) } ∧
    exec (.fsq2 fd fa) s = .next { s with f := s.f.set fd ((2 * (s.f[fa] * s.f[fa])) % prime) }

/-- Each answers the state with F[D] the power and nothing else changed, where the exponents are
2^255 - 21 and 2^252 - 3; 0 gives 0, 1 gives 1, and FPOW22523 of p - 1 gives p - 1. (R112) -/
def Obligations.PowerCommandsCompute : Prop :=
  (∀ (fd fa : FReg) (s : State),
      exec (.finv fd fa) s = .next { s with f := s.f.set fd (s.f[fa] ^ (prime - 2) % prime) } ∧
      exec (.fpow22523 fd fa) s =
        .next { s with f := s.f.set fd (s.f[fa] ^ ((prime - 5) / 8) % prime) }) ∧
    prime - 2 = 2 ^ 255 - 21 ∧ (prime - 5) / 8 = 2 ^ 252 - 3 ∧
    ∀ (fd fa : FReg) (s : State), s.f[fa] = 0 ∨ s.f[fa] = 1 ∨ s.f[fa] = prime - 1 →
      exec (.fpow22523 fd fa) s = .next { s with f := s.f.set fd s.f[fa] }

/-- FINV answers the state with F[D] = F[A]^(2^255 - 21) mod p and nothing else changed. For
canonical F[A]: if F[A] is not 0, F[A] times the result is 1 mod p; if F[A] is 0 the result is
0; if F[A] is 1 it is 1; and FINV of the result is F[A]. (R111) -/
def Obligations.FinvInverts : Prop :=
  ∀ (fd fa fe : FReg) (s : State), ∃ v : Nat, v = s.f[fa] ^ (prime - 2) % prime ∧
    exec (.finv fd fa) s = .next { s with f := s.f.set fd v } ∧
    (s.f[fa] < prime →
      (s.f[fa] ≠ 0 → s.f[fa] * v % prime = 1) ∧ (s.f[fa] = 0 → v = 0) ∧ (s.f[fa] = 1 → v = 1) ∧
      exec (.finv fe fd) { s with f := s.f.set fd v } =
        .next { s with f := (s.f.set fd v).set fe s.f[fa] })

/-- With u = F[A], v = F[B] and x = u v^3 (u v^7)^((p-5)/8) mod p: if v x^2 mod p = u, F[D] = x and
CF = 1; else if v x^2 mod p = -u mod p, F[D] = x SQRTM1 mod p and CF = 1; else CF = 0 and F[D]
is unchanged. Nothing else changes. (R114) -/
def Obligations.FsqrtrComputesByFormula : Prop :=
  ∀ (fd fa fb : FReg) (s : State) (u v x : Nat), u = s.f[fa] → v = s.f[fb] →
    x = u * v ^ 3 * (u * v ^ 7) ^ ((prime - 5) / 8) % prime →
    exec (.fsqrtr fd fa fb) s = .next (
      if v * x ^ 2 % prime = u then { s with f := s.f.set fd x, cf := true }
      else if ((v * x ^ 2 % prime : Nat) : Int) = (-(u : Int)) % prime then
        { s with
          f := s.f.set fd
            (x * 19681161376707505956807079304988542015446066515923890162744021073123829784752 % prime)
          cf := true }
      else { s with cf := false })

/-- In every state with canonical F[A]: FSQRTR answers a next state t; if CF = 1 in t, then v times
the square of F[D] in t is u mod p, u and v being F[A] and F[B] before; if CF = 0 in t, F is
unchanged; and u = 0 gives F[D] = 0 and CF = 1 for every v, while v = 0 with u not 0 gives CF =
0. (R114) -/
def Obligations.FsqrtrRootIsARoot : Prop :=
  ∀ (fd fa fb : FReg) (s : State), s.f[fa] < prime → ∃ t, exec (.fsqrtr fd fa fb) s = .next t ∧
    (t.cf = true → s.f[fb] * (t.f[fd]) ^ 2 % prime = s.f[fa]) ∧
    (t.cf = false → t.f = s.f) ∧
    (s.f[fa] = 0 → t.cf = true ∧ t.f[fd] = 0) ∧
    (s.f[fb] = 0 → s.f[fa] ≠ 0 → t.cf = false)

/-- In every state with canonical F[A] and F[B], F[B] not 0 and F[A] = F[B] w^2 mod p for some w,
FSQRTR answers a next state with CF = 1. (R114) -/
def Obligations.FsqrtrFindsEveryRoot : Prop :=
  ∀ (fd fa fb : FReg) (s : State) (w : Nat), s.f[fa] < prime → s.f[fb] < prime → s.f[fb] ≠ 0 →
    s.f[fa] = s.f[fb] * w ^ 2 % prime →
    ∃ t, exec (.fsqrtr fd fa fb) s = .next t ∧ t.cf = true

/-- FISNEG answers the state with CF = bit 0 of F[A], FISZERO with CF = 1 exactly when F[A] = 0;
nothing else changes. (R115, R116) -/
def Obligations.PredicatesWriteCF : Prop :=
  ∀ (fa : FReg) (s : State),
    exec (.fisneg fa) s = .next { s with cf := (s.f[fa]).testBit 0 } ∧
    exec (.fiszero fa) s = .next { s with cf := decide (s.f[fa] = 0) }

/-- FLD answers the state with F[D] = (DATA mod 2^255) mod p and nothing else changed. FST answers
the state with DATA changed only; for canonical F[A] byte i of DATA is byte i of F[A], DATA as
an integer is F[A], and bit 255 is 0, and an FLD that follows gives F[A]. (R118, R119) -/
def Obligations.ByteCommandsConvert : Prop :=
  ∀ (fd fa : FReg) (s : State),
    exec (.fld fd) s = .next { s with f := s.f.set fd (s.data.toNat % 2 ^ 255 % prime) } ∧
    ∃ b : Buffer, exec (.fst fa) s = .next { s with data := b } ∧
      (s.f[fa] < prime →
        b.toNat = s.f[fa] ∧ b.getLsbD 255 = false ∧
        (∀ i : Fin 32, (b.extractLsb' (8 * i.val) 8).toNat = s.f[fa] / 256 ^ i.val % 256) ∧
        exec (.fld fd) { s with data := b } = .next { s with data := b, f := s.f.set fd s.f[fa] })

/-- PZERO answers the state with P[D] = (P3, 0, 1, 1, 0); PMOV with P[D] = P[A]; PSETC with the one
component of P[D] replaced by F[A]; PGETC with F[D] that component of P[A]; PFORM with the form
of P[D] replaced; PCMOV with P[D] = P[A] when CF = 1 and unchanged when CF = 0. Nothing else
changes, whatever the forms. (R159, R160, R161, R162, R163, R165) -/
def Obligations.PointDataMovementCompletes : Prop :=
  ∀ (pd pa : PReg) (fd fa : FReg) (g : Form) (s : State),
    exec (.pzero pd) s = .next { s with p := s.p.set pd ⟨.P3, 0, 1, 1, 0⟩ } ∧
    exec (.pmov pd pa) s = .next { s with p := s.p.set pd s.p[pa] } ∧
    exec (.psetc pd fa .c0) s = .next { s with p := s.p.set pd { s.p[pd] with c0 := s.f[fa] } } ∧
    exec (.psetc pd fa .c1) s = .next { s with p := s.p.set pd { s.p[pd] with c1 := s.f[fa] } } ∧
    exec (.psetc pd fa .c2) s = .next { s with p := s.p.set pd { s.p[pd] with c2 := s.f[fa] } } ∧
    exec (.psetc pd fa .c3) s = .next { s with p := s.p.set pd { s.p[pd] with c3 := s.f[fa] } } ∧
    exec (.pgetc fd pa .c0) s = .next { s with f := s.f.set fd (s.p[pa]).c0 } ∧
    exec (.pgetc fd pa .c1) s = .next { s with f := s.f.set fd (s.p[pa]).c1 } ∧
    exec (.pgetc fd pa .c2) s = .next { s with f := s.f.set fd (s.p[pa]).c2 } ∧
    exec (.pgetc fd pa .c3) s = .next { s with f := s.f.set fd (s.p[pa]).c3 } ∧
    exec (.pform pd g) s = .next { s with p := s.p.set pd { s.p[pd] with form := g } } ∧
    (s.cf = true → exec (.pcmov pd pa) s = .next { s with p := s.p.set pd s.p[pa] }) ∧
    (s.cf = false → exec (.pcmov pd pa) s = .next s)

/-- When P[A] has form P2 or P3 with components X, Y, Z, PDBL answers the state with P[D] the P1P1
record of those four residues modulo p and nothing else changed (c3 of P[A] is not read); for
any other form it answers the state with ERR = 1 and ERRCODE = 0x03 and nothing else changed.
(R145) -/
def Obligations.PdblComputesDoubling : Prop :=
  ∀ (pd pa : PReg) (s : State) (X Y Z : Int), X = (s.p[pa]).c0 → Y = (s.p[pa]).c1 →
    Z = (s.p[pa]).c2 →
    ((s.p[pa]).form = .P2 ∨ (s.p[pa]).form = .P3 →
      exec (.pdbl pd pa) s = .next { s with p := (s.p.set pd
        ⟨.P1P1, ((2 * X * Y) % prime).toNat, ((Y ^ 2 + X ^ 2) % prime).toNat,
          ((Y ^ 2 - X ^ 2) % prime).toNat, ((2 * Z ^ 2 - (Y ^ 2 - X ^ 2)) % prime).toNat⟩) }) ∧
    ((s.p[pa]).form ≠ .P2 → (s.p[pa]).form ≠ .P3 →
      exec (.pdbl pd pa) s = .next { s with err := true, errcode := 0x03#8 })

/-- With P[A] = (P3, X, Y, Z, T): for P[B] = (PRECOMP, yp, ym, xy2d, _) PMADD answers the state with
P[D] = (P1P1, a-b, a+b, 2Z+c, 2Z-c), a = (Y+X) yp, b = (Y-X) ym, c = xy2d T, modulo p; for P[B]
= (CACHED, yp, ym, Z2, T2d) PADD answers it with (P1P1, a-b, a+b, 2 Z Z2 + c, 2 Z Z2 - c), c =
T2d T. On any other form of either operand the command answers the state with ERR = 1, ERRCODE =
0x03 and nothing else changed. (R146, R147) -/
def Obligations.AdditionCommandsCompute : Prop :=
  ∀ (pd pa pb : PReg) (s : State) (X Y Z T y0 y1 y2 y3 : Int), X = (s.p[pa]).c0 →
    Y = (s.p[pa]).c1 → Z = (s.p[pa]).c2 → T = (s.p[pa]).c3 → y0 = (s.p[pb]).c0 →
    y1 = (s.p[pb]).c1 → y2 = (s.p[pb]).c2 → y3 = (s.p[pb]).c3 →
    ((s.p[pa]).form = .P3 → (s.p[pb]).form = .PRECOMP →
      exec (.pmadd pd pa pb) s = .next { s with p := (s.p.set pd
        ⟨.P1P1, (((Y + X) * y0 - (Y - X) * y1) % prime).toNat,
          (((Y + X) * y0 + (Y - X) * y1) % prime).toNat, ((2 * Z + y2 * T) % prime).toNat,
          ((2 * Z - y2 * T) % prime).toNat⟩) }) ∧
    ((s.p[pa]).form = .P3 → (s.p[pb]).form = .CACHED →
      exec (.padd pd pa pb) s = .next { s with p := (s.p.set pd
        ⟨.P1P1, (((Y + X) * y0 - (Y - X) * y1) % prime).toNat,
          (((Y + X) * y0 + (Y - X) * y1) % prime).toNat, ((2 * (Z * y2) + y3 * T) % prime).toNat,
          ((2 * (Z * y2) - y3 * T) % prime).toNat⟩) }) ∧
    ((s.p[pa]).form ≠ .P3 ∨ (s.p[pb]).form ≠ .PRECOMP →
      exec (.pmadd pd pa pb) s = .next { s with err := true, errcode := 0x03#8 }) ∧
    ((s.p[pa]).form ≠ .P3 ∨ (s.p[pb]).form ≠ .CACHED →
      exec (.padd pd pa pb) s = .next { s with err := true, errcode := 0x03#8 })

/-- For P[A] = (P1P1, X, Y, Z, T), PTOP2 answers the state with P[D] = (P2, XT, YZ, ZT, 0) and PTOP3
with (P3, XT, YZ, ZT, XY), modulo p; for P[A] = (P3, X, Y, Z, T), PTOP2 answers (P2, X, Y, Z, 0)
and PTOCACHED (CACHED, Y+X, Y-X, Z, T D2). Nothing else changes. On any other form they answer
the state with ERR = 1 and ERRCODE = 0x03. The P3 record PTOP3 writes satisfies X'Y' = Z'T' for
every input, valid or not, and aff is preserved by all three for valid inputs, the result being
valid. (R149, R150, R151) -/
def Obligations.ConversionCommandsCompute : Prop :=
  ∀ (pd pa : PReg) (s : State) (a : PointReg), a = s.p[pa] →
    (a.form = .P1P1 →
      exec (.ptop2 pd pa) s = .next { s with p := (s.p.set pd
        ⟨.P2, a.c0 * a.c3 % prime, a.c1 * a.c2 % prime, a.c2 * a.c3 % prime, 0⟩) } ∧
      ∃ b : PointReg, exec (.ptop3 pd pa) s = .next { s with p := s.p.set pd b } ∧
        b = ⟨.P3, a.c0 * a.c3 % prime, a.c1 * a.c2 % prime, a.c2 * a.c3 % prime,
          a.c0 * a.c1 % prime⟩ ∧
        b.c0 * b.c1 % prime = b.c2 * b.c3 % prime) ∧
    (a.form = .P3 →
      exec (.ptop2 pd pa) s = .next { s with p := s.p.set pd ⟨.P2, a.c0, a.c1, a.c2, 0⟩ } ∧
      exec (.ptocached pd pa) s = .next { s with p := (s.p.set pd
        ⟨.CACHED, (a.c1 + a.c0) % prime, (((a.c1 : Int) - a.c0) % prime).toNat, a.c2,
          a.c3 * 16295367250680780974490674513165176452449235426866156013048779062215315747161 % prime⟩) }) ∧
    (a.form ≠ .P1P1 → a.form ≠ .P3 →
      exec (.ptop2 pd pa) s = .next { s with err := true, errcode := 0x03#8 }) ∧
    (a.form ≠ .P1P1 → exec (.ptop3 pd pa) s = .next { s with err := true, errcode := 0x03#8 }) ∧
    (a.form ≠ .P3 → exec (.ptocached pd pa) s = .next { s with err := true, errcode := 0x03#8 }) ∧
    (a.valid →
      (a.form = .P1P1 ∨ a.form = .P3 → ∃ t, exec (.ptop2 pd pa) s = .next t ∧
        (t.p[pd]).valid ∧ (t.p[pd]).aff = a.aff) ∧
      (a.form = .P1P1 → ∃ t, exec (.ptop3 pd pa) s = .next t ∧
        (t.p[pd]).valid ∧ (t.p[pd]).aff = a.aff) ∧
      (a.form = .P3 → ∃ t, exec (.ptocached pd pa) s = .next t ∧
        (t.p[pd]).valid ∧ (t.p[pd]).aff = a.aff))

/-- When P[A] has form P3 or P2, with r = Z^(p-2) mod p, x = X r mod p, y = Y r mod p, PENC answers
the state with DATA, as an integer, y + (x mod 2) 2^255 and nothing else changed; for Z = 0 DATA
is 0. On any other form it answers the state with ERR = 1, ERRCODE = 0x03 and nothing else
changed. (R153) -/
def Obligations.PencEncodes : Prop :=
  ∀ (pa : PReg) (s : State) (r x y : Nat), r = (s.p[pa]).c2 ^ (prime - 2) % prime →
    x = (s.p[pa]).c0 * r % prime → y = (s.p[pa]).c1 * r % prime →
    ((s.p[pa]).form = .P2 ∨ (s.p[pa]).form = .P3 → ∃ b : Buffer,
      exec (.penc pa) s = .next { s with data := b } ∧ b.toNat = y + x % 2 * 2 ^ 255 ∧
        ((s.p[pa]).c2 = 0 → b.toNat = 0)) ∧
    ((s.p[pa]).form ≠ .P2 → (s.p[pa]).form ≠ .P3 →
      exec (.penc pa) s = .next { s with err := true, errcode := 0x03#8 })

/-- Let y = (DATA mod 2^255) mod p, u = (y^2 - 1) mod p, v = (d y^2 + 1) mod p, and let FSQRTR run
on any state with F[0] = u and F[1] = v give the root and CF. When that CF is 0, PDEC answers
the state with CF = 0 and nothing else changed. When it is 1 with root r, PDEC answers the state
with CF = 1 and P[D] = (P3, x, y, 1, x y mod p), where x is r or -r mod p: -r when the parity of
r differs from bit 255 of DATA in mode 0, and when it equals it in mode 1. DATA is unchanged.
(R155) -/
def Obligations.PdecDecodes : Prop :=
  ∀ (pd : PReg) (mode : DecodeMode) (s q t : State) (y u v : Nat),
    y = s.data.toNat % 2 ^ 255 % prime → (u : Int) = ((y : Int) ^ 2 - 1) % prime →
    v = (37095705934669439343138083508754565189542113879843219016388785533085940283555 * y ^ 2 + 1) %
      prime →
    q.f[(0 : FReg)] = u → q.f[(1 : FReg)] = v → exec (.fsqrtr 2 0 1) q = .next t →
    (t.cf = false → exec (.pdec pd mode) s = .next { s with cf := false }) ∧
    (t.cf = true → ∃ x : Nat,
      (x : Int) = (if (decide ((t.f[(2 : FReg)]) % 2 = 1) != s.data.getLsbD 255) = decide (mode = .plain)
        then -((t.f[(2 : FReg)] : Nat) : Int) else ((t.f[(2 : FReg)] : Nat) : Int)) % prime ∧
      exec (.pdec pd mode) s =
        .next { s with p := s.p.set pd ⟨.P3, x, y, 1, x * y % prime⟩, cf := true })

/-- With bad(i, s) saying that an operand of i has a form outside the row of R141 for PDBL, PMADD,
PADD, PTOP2, PTOP3, PTOCACHED or PENC: on each such command exec answers the state with ERR = 1,
ERRCODE = 0x03 and nothing else changed. PZERO, PMOV, PSETC, PGETC, PCMOV, PFORM and PDEC leave
ERR and ERRCODE alone whatever the forms, the destination's old form among them. (R141) -/
def Obligations.WrongFormsRaiseForm : Prop :=
  ∀ (pd pa pb : PReg) (fd fa : FReg) (c : Component) (g : Form) (m : DecodeMode) (s : State),
    ((s.p[pa]).form ∉ [.P2, .P3] →
      exec (.pdbl pd pa) s = .next { s with err := true, errcode := 0x03#8 } ∧
      exec (.penc pa) s = .next { s with err := true, errcode := 0x03#8 }) ∧
    ((s.p[pa]).form ≠ .P3 ∨ (s.p[pb]).form ≠ .PRECOMP →
      exec (.pmadd pd pa pb) s = .next { s with err := true, errcode := 0x03#8 }) ∧
    ((s.p[pa]).form ≠ .P3 ∨ (s.p[pb]).form ≠ .CACHED →
      exec (.padd pd pa pb) s = .next { s with err := true, errcode := 0x03#8 }) ∧
    ((s.p[pa]).form ∉ [.P1P1, .P3] →
      exec (.ptop2 pd pa) s = .next { s with err := true, errcode := 0x03#8 }) ∧
    ((s.p[pa]).form ≠ .P1P1 →
      exec (.ptop3 pd pa) s = .next { s with err := true, errcode := 0x03#8 }) ∧
    ((s.p[pa]).form ≠ .P3 →
      exec (.ptocached pd pa) s = .next { s with err := true, errcode := 0x03#8 }) ∧
    ∀ i ∈ [Instr.pzero pd, .pmov pd pa, .psetc pd fa c, .pgetc fd pa c, .pcmov pd pa, .pform pd g,
        .pdec pd m], ∃ t, exec i s = .next t ∧ t.err = s.err ∧ t.errcode = s.errcode

/-- For a digit in -8..8 PSEL answers the state with P[D] the precomputed identity (PRECOMP, 1, 1,
0, 0) when the digit is 0; TABLE[POS][DIG - 1] when it is positive; and that entry for -DIG with
c0 and c1 exchanged and c2 negated modulo p when it is negative; always with form PRECOMP and c3
= 0. Nothing else changes. For a digit outside -8..8, which no word decodes to, the answer of
exec is E_ILLEGAL: that clause is the model's (log 18, DEDUCED). (R184, R185) -/
def Obligations.PselSelects : Prop :=
  ∀ (pd : PReg) (pos : Fin 32) (dig : Int) (s : State),
    (-8 ≤ dig → dig ≤ 8 → ∃ v : PointReg,
      exec (.psel pd pos dig) s = .next { s with p := s.p.set pd v } ∧ v.form = .PRECOMP ∧ v.c3 = 0 ∧
      (dig = 0 → v = ⟨.PRECOMP, 1, 1, 0, 0⟩) ∧
      (0 < dig → v = table pos.val (dig.toNat - 1)) ∧
      (dig < 0 → v.c0 = (table pos.val ((-dig).toNat - 1)).c1 ∧
        v.c1 = (table pos.val ((-dig).toNat - 1)).c0 ∧
        (v.c2 : Int) = (-((table pos.val ((-dig).toNat - 1)).c2 : Int)) % prime)) ∧
    (dig < -8 ∨ 8 < dig → exec (.psel pd pos dig) s =
      .next { s with err := true, errcode := 0x02#8 })

/-- With bit 255 of DATA clear, SMULB answers the state with P[D] = FixedBase(a), a the integer DATA
holds, and nothing else changed, DATA and CF among it; with it set, the state with ERR = 1,
ERRCODE = 0x04 and nothing else changed. (R190) -/
def Obligations.SmulbMultipliesOrRefusesTopBit : Prop :=
  ∀ (pd : PReg) (s : State),
    (s.data.getLsbD 255 = false →
      exec (.smulb pd) s = .next { s with p := s.p.set pd (fixedBase s.data.toNat) }) ∧
    (s.data.getLsbD 255 = true →
      exec (.smulb pd) s = .next { s with err := true, errcode := 0x04#8 })

/-- FADD, FSUB, FNEG, FMUL, FSQ, FSQ2 and FINV each answer the state with F[D] a function of the
operand values and nothing else changed; and those functions, on all a, b, c in [0, p), are
canonical and satisfy: commutativity, associativity, distributivity, a + 0 = a, a * 1 = a, a +
FNEG(a) = 0, FSUB(a, b) = a + FNEG(b), a * FINV(a) = 1 for a not 0, FINV(FINV(a)) = a, FSQ(a) =
a * a, FSQ2(a) = FSQ(a) + FSQ(a). (R120) -/
def Obligations.FieldLawsHold : Prop :=
  ∃ (add sub mul : Nat → Nat → Nat) (neg sq sq2 inv : Nat → Nat),
    (∀ (fd fa fb : FReg) (s : State),
      exec (.fadd fd fa fb) s = .next { s with f := s.f.set fd (add s.f[fa] s.f[fb]) } ∧
      exec (.fsub fd fa fb) s = .next { s with f := s.f.set fd (sub s.f[fa] s.f[fb]) } ∧
      exec (.fmul fd fa fb) s = .next { s with f := s.f.set fd (mul s.f[fa] s.f[fb]) } ∧
      exec (.fneg fd fa) s = .next { s with f := s.f.set fd (neg s.f[fa]) } ∧
      exec (.fsq fd fa) s = .next { s with f := s.f.set fd (sq s.f[fa]) } ∧
      exec (.fsq2 fd fa) s = .next { s with f := s.f.set fd (sq2 s.f[fa]) } ∧
      exec (.finv fd fa) s = .next { s with f := s.f.set fd (inv s.f[fa]) }) ∧
    ∀ a b c : Nat, a < prime → b < prime → c < prime →
      (add a b < prime ∧ sub a b < prime ∧ mul a b < prime ∧ neg a < prime ∧ sq a < prime ∧
        sq2 a < prime ∧ inv a < prime) ∧
      add a b = add b a ∧ add (add a b) c = add a (add b c) ∧ mul a b = mul b a ∧
      mul (mul a b) c = mul a (mul b c) ∧ mul a (add b c) = add (mul a b) (mul a c) ∧
      add a 0 = a ∧ mul a 1 = a ∧ add a (neg a) = 0 ∧ sub a b = add a (neg b) ∧
      (a ≠ 0 → mul a (inv a) = 1) ∧ inv (inv a) = a ∧ sq a = mul a a ∧ sq2 a = add (sq a) (sq a)

/-- For every two points on the curve (canonical coordinates) both denominators of the group law are
nonzero and the sum is on the curve; (0, 1) is neutral and (-x, y) is the inverse of (x, y).
(R143) -/
def Obligations.CurveAdditionIsComplete : Prop :=
  ∀ a b : Affine, a.onCurve → b.onCurve →
    fadd 1 (a.cross b) ≠ 0 ∧ fsub 1 (a.cross b) ≠ 0 ∧ (a.add b).onCurve ∧
    Affine.zero.add a = a ∧ a.add .zero = a ∧ a.add a.neg = .zero

/-- For valid operands in accepted forms, PDBL answers a state whose P[D] is a valid P1P1 value with
aff = aff(A) + aff(A), and PMADD and PADD one with aff = aff(A) + aff(B). (R148) -/
def Obligations.PointCommandsFollowGroupLaw : Prop :=
  ∀ (pd pa pb : PReg) (s : State), (s.p[pa]).valid →
    ((s.p[pa]).form = .P2 ∨ (s.p[pa]).form = .P3 → ∃ t, exec (.pdbl pd pa) s = .next t ∧
      (t.p[pd]).form = .P1P1 ∧ (t.p[pd]).valid ∧
      (t.p[pd]).aff = (s.p[pa]).aff.add (s.p[pa]).aff) ∧
    ((s.p[pb]).valid → (s.p[pa]).form = .P3 → (s.p[pb]).form = .PRECOMP →
      ∃ t, exec (.pmadd pd pa pb) s = .next t ∧ (t.p[pd]).form = .P1P1 ∧ (t.p[pd]).valid ∧
        (t.p[pd]).aff = (s.p[pa]).aff.add (s.p[pb]).aff) ∧
    ((s.p[pb]).valid → (s.p[pa]).form = .P3 → (s.p[pb]).form = .CACHED →
      ∃ t, exec (.padd pd pa pb) s = .next t ∧ (t.p[pd]).form = .P1P1 ∧ (t.p[pd]).valid ∧
        (t.p[pd]).aff = (s.p[pa]).aff.add (s.p[pb]).aff)

/-- If PDEC answers t with CF = 1, then P[D] in t has Z = 1, T = XY, and (X, Y) satisfies -x^2 + y^2
= 1 + d x^2 y^2, Y being the encoded y mod p; in mode 0 with X not 0 the parity of X is bit 255
of DATA. If CF = 0 in t, no x makes (x, y) a point of the curve. (R157) -/
def Obligations.DecodedPointIsOnCurve : Prop :=
  ∀ (pd : PReg) (mode : DecodeMode) (s t : State), exec (.pdec pd mode) s = .next t →
    (t.cf = true →
      Affine.onCurve ⟨(t.p[pd]).c0, (t.p[pd]).c1⟩ ∧ (t.p[pd]).form = .P3 ∧
      (t.p[pd]).c1 = s.data.toNat % 2 ^ 255 % prime ∧ (t.p[pd]).c2 = 1 ∧
      (t.p[pd]).c3 = (t.p[pd]).c0 * (t.p[pd]).c1 % prime ∧
      (mode = .plain → (t.p[pd]).c0 ≠ 0 →
        decide ((t.p[pd]).c0 % 2 = 1) = s.data.getLsbD 255)) ∧
    (t.cf = false → ∀ x : Nat, ¬ Affine.onCurve ⟨x, s.data.toNat % 2 ^ 255 % prime⟩)

/-- For every valid P3 or P2 register, PENC and then PDEC in mode 0 answers a state with CF = 1 and
P[D] a P3 value with the same aff and Z = 1; in mode 1, with the negated aff. A string from
which PDEC sets CF = 1 has an x that puts its y on the curve (so one with none is rejected), and
when CF = 0 nothing else is written. (R156) -/
def Obligations.EncodeDecodeRoundTrip : Prop :=
  (∀ (pd pa : PReg) (s : State), (s.p[pa]).valid → (s.p[pa]).form = .P3 ∨ (s.p[pa]).form = .P2 →
      ∃ t u v, exec (.penc pa) s = .next t ∧
        exec (.pdec pd .plain) t = .next u ∧ u.cf = true ∧ (u.p[pd]).form = .P3 ∧
        (u.p[pd]).aff = (s.p[pa]).aff ∧ (u.p[pd]).c2 = 1 ∧
        exec (.pdec pd .negated) t = .next v ∧ v.cf = true ∧
        (v.p[pd]).aff = (s.p[pa]).aff.neg) ∧
    ∀ (pd : PReg) (mode : DecodeMode) (s t : State), exec (.pdec pd mode) s = .next t →
      (t.cf = true → ∃ x, Affine.onCurve ⟨x, s.data.toNat % 2 ^ 255 % prime⟩) ∧
      (t.cf = false → t = { s with cf := false })

/-- For every a below 2^255, Recode(a) has 64 digits, e[i] in -8..7 for i in 0..62, e[63] in 0..8,
and the sum of e[i] 16^i is a; e[63] = 8 is reached at a = 2^255 - 1, whose last four digits are
0, 0, 0, 8. Digits 2 pos and 2 pos + 1 weigh 256^pos and 16 256^pos. (R183) -/
def Obligations.RecodingRepresentsTheScalar : Prop :=
  (∀ a : Nat, a < 2 ^ 255 →
      (recode a).length = 64 ∧
      (∀ i < 63, -8 ≤ digit (recode a) i ∧ digit (recode a) i ≤ 7) ∧
      0 ≤ digit (recode a) 63 ∧ digit (recode a) 63 ≤ 8 ∧
      (∑ i ∈ Finset.range 64, digit (recode a) i * 16 ^ i) = a ∧
      (∑ pos ∈ Finset.range 32,
        (digit (recode a) (2 * pos) * 256 ^ pos + digit (recode a) (2 * pos + 1) * (16 * 256 ^ pos))) =
          a) ∧
    (recode (2 ^ 255 - 1)).drop 60 = [0, 0, 0, 8]

/-- For pos below 32 and j below 8, TABLE[pos][j] is (PRECOMP, y+x, y-x, D2 x y, 0) modulo p for the
affine point (x, y) that is the ((j+1) 256^pos)-fold sum of B under the group law. (The model
computes the entries by double-and-add in extended coordinates, log 9; the table is no part of
State, so nothing changes it.) (R58) -/
def Obligations.TableHoldsBaseMultiples : Prop :=
  ∀ (pos j : Nat) (q : Affine), pos < 32 → j < 8 →
    q = Affine.base.times ((j + 1) * 256 ^ pos) →
    table pos j = ⟨.PRECOMP, fadd q.y q.x, fsub q.y q.x, fmul constD2 (fmul q.x q.y), 0⟩

/-- For every state whose DATA has bit 255 clear, SMULB answers a state whose P[D] is a valid P3
value with aff equal to a B, a being DATA as an integer, and to (a mod L) B. (R189) -/
def Obligations.EngineMultipliesTheBasePoint : Prop :=
  ∀ (pd : PReg) (s : State), s.data.getLsbD 255 = false →
    ∃ t, exec (.smulb pd) s = .next t ∧ (t.p[pd]).form = .P3 ∧ (t.p[pd]).valid ∧
      (t.p[pd]).aff = Affine.base.times s.data.toNat ∧
      (t.p[pd]).aff = Affine.base.times (s.data.toNat % groupOrder)

/-- The form of a request is the model's choice (log 14, DEDUCED), since R221 only makes the input,
its priority and its mask parameters: host input n has a request of priority q from this block
exactly when n is CORE_IRQ, q is that input's priority, the host does not mask it and IRQ is 1.
As R220 and R221 say, with IE = 0 no input has a request, whatever the host masks, and a read of
STATUS still returns DONE in bit 1. (R220, R221) -/
def Obligations.InterruptReachesTheHostUnlessMasked : Prop :=
  (∀ (s : State) (n q : Nat), s.hostRequest n = some q ↔
      n = Config.coreIrq ∧ q = Config.coreIrqPriority ∧ Config.coreIrqMasked = false ∧
        s.irq = true) ∧
    ∀ (s : State) (rest : List Move), s.ie = false →
      (∀ n : Nat, s.hostRequest n = none) ∧
      (s.hostNext 0x08 .read rest → ∃ v : Word,
        step s = .next { s with moves := rest, reads := v :: s.reads } ∧ v.getLsbD 1 = s.done)

/-- For every state whose DATA has bit 255 clear: with e the recoded digits of DATA, the command
sequence PZERO p1; for the odd digits, least significant first, PSEL p2 of the digit, PMADD p1,
p1, p2, PTOP3 p1, p1; PDBL, PTOP2, PDBL, PTOP2, PDBL, PTOP2, PDBL, PTOP3 of p1; the same for the
even digits; answers a state whose P[1] is a P3 record, and SMULB answers the state with that
record in P[D], all four coordinates as they are, and nothing else changed. (R187) -/
def Obligations.SmulbRunsItsSequence : Prop :=
  ∀ (pd : PReg) (s : State), s.data.getLsbD 255 = false →
    ∃ t, execAll (engineProgram (recode s.data.toNat)) s = .next t ∧ (t.p[(1 : PReg)]).form = .P3 ∧
      exec (.smulb pd) s = .next { s with p := s.p.set pd t.p[(1 : PReg)] }
end

