-- ==== Sys2Proof/Laws/State.lean ====
section
/-! SUPPORT. Laws/State.lean: what each named update of State leaves in each field, one lemma per field
per update, and reading a register after writing one. -/

namespace Sys2Proof.Machine

/-! One theorem at a time: many at once take a thread and its stack each. -/
set_option Elab.async false

/-! ## setF -/

@[simp] theorem State.setF_f (s : State) (i : FReg) (v : Nat) :
    (s.setF i v).f = s.f.set i v := rfl

@[simp] theorem State.setF_p (s : State) (i : FReg) (v : Nat) :
    (s.setF i v).p = s.p := rfl

@[simp] theorem State.setF_cf (s : State) (i : FReg) (v : Nat) :
    (s.setF i v).cf = s.cf := rfl

@[simp] theorem State.setF_data (s : State) (i : FReg) (v : Nat) :
    (s.setF i v).data = s.data := rfl

@[simp] theorem State.setF_busy (s : State) (i : FReg) (v : Nat) :
    (s.setF i v).busy = s.busy := rfl

@[simp] theorem State.setF_pending (s : State) (i : FReg) (v : Nat) :
    (s.setF i v).pending = s.pending := rfl

@[simp] theorem State.setF_ie (s : State) (i : FReg) (v : Nat) :
    (s.setF i v).ie = s.ie := rfl

@[simp] theorem State.setF_done (s : State) (i : FReg) (v : Nat) :
    (s.setF i v).done = s.done := rfl

@[simp] theorem State.setF_err (s : State) (i : FReg) (v : Nat) :
    (s.setF i v).err = s.err := rfl

@[simp] theorem State.setF_errcode (s : State) (i : FReg) (v : Nat) :
    (s.setF i v).errcode = s.errcode := rfl

@[simp] theorem State.setF_moves (s : State) (i : FReg) (v : Nat) :
    (s.setF i v).moves = s.moves := rfl

@[simp] theorem State.setF_reads (s : State) (i : FReg) (v : Nat) :
    (s.setF i v).reads = s.reads := rfl

@[simp] theorem State.setF_draws (s : State) (i : FReg) (v : Nat) :
    (s.setF i v).draws = s.draws := rfl

/-! ## setP -/

@[simp] theorem State.setP_f (s : State) (i : PReg) (v : PointReg) :
    (s.setP i v).f = s.f := rfl

@[simp] theorem State.setP_p (s : State) (i : PReg) (v : PointReg) :
    (s.setP i v).p = s.p.set i v := rfl

@[simp] theorem State.setP_cf (s : State) (i : PReg) (v : PointReg) :
    (s.setP i v).cf = s.cf := rfl

@[simp] theorem State.setP_data (s : State) (i : PReg) (v : PointReg) :
    (s.setP i v).data = s.data := rfl

@[simp] theorem State.setP_busy (s : State) (i : PReg) (v : PointReg) :
    (s.setP i v).busy = s.busy := rfl

@[simp] theorem State.setP_pending (s : State) (i : PReg) (v : PointReg) :
    (s.setP i v).pending = s.pending := rfl

@[simp] theorem State.setP_ie (s : State) (i : PReg) (v : PointReg) :
    (s.setP i v).ie = s.ie := rfl

@[simp] theorem State.setP_done (s : State) (i : PReg) (v : PointReg) :
    (s.setP i v).done = s.done := rfl

@[simp] theorem State.setP_err (s : State) (i : PReg) (v : PointReg) :
    (s.setP i v).err = s.err := rfl

@[simp] theorem State.setP_errcode (s : State) (i : PReg) (v : PointReg) :
    (s.setP i v).errcode = s.errcode := rfl

@[simp] theorem State.setP_moves (s : State) (i : PReg) (v : PointReg) :
    (s.setP i v).moves = s.moves := rfl

@[simp] theorem State.setP_reads (s : State) (i : PReg) (v : PointReg) :
    (s.setP i v).reads = s.reads := rfl

@[simp] theorem State.setP_draws (s : State) (i : PReg) (v : PointReg) :
    (s.setP i v).draws = s.draws := rfl

/-! ## setCF -/

@[simp] theorem State.setCF_f (s : State) (v : Bool) :
    (s.setCF v).f = s.f := rfl

@[simp] theorem State.setCF_p (s : State) (v : Bool) :
    (s.setCF v).p = s.p := rfl

@[simp] theorem State.setCF_cf (s : State) (v : Bool) :
    (s.setCF v).cf = v := rfl

@[simp] theorem State.setCF_data (s : State) (v : Bool) :
    (s.setCF v).data = s.data := rfl

@[simp] theorem State.setCF_busy (s : State) (v : Bool) :
    (s.setCF v).busy = s.busy := rfl

@[simp] theorem State.setCF_pending (s : State) (v : Bool) :
    (s.setCF v).pending = s.pending := rfl

@[simp] theorem State.setCF_ie (s : State) (v : Bool) :
    (s.setCF v).ie = s.ie := rfl

@[simp] theorem State.setCF_done (s : State) (v : Bool) :
    (s.setCF v).done = s.done := rfl

@[simp] theorem State.setCF_err (s : State) (v : Bool) :
    (s.setCF v).err = s.err := rfl

@[simp] theorem State.setCF_errcode (s : State) (v : Bool) :
    (s.setCF v).errcode = s.errcode := rfl

@[simp] theorem State.setCF_moves (s : State) (v : Bool) :
    (s.setCF v).moves = s.moves := rfl

@[simp] theorem State.setCF_reads (s : State) (v : Bool) :
    (s.setCF v).reads = s.reads := rfl

@[simp] theorem State.setCF_draws (s : State) (v : Bool) :
    (s.setCF v).draws = s.draws := rfl

/-! ## setData -/

@[simp] theorem State.setData_f (s : State) (v : Buffer) :
    (s.setData v).f = s.f := rfl

@[simp] theorem State.setData_p (s : State) (v : Buffer) :
    (s.setData v).p = s.p := rfl

@[simp] theorem State.setData_cf (s : State) (v : Buffer) :
    (s.setData v).cf = s.cf := rfl

@[simp] theorem State.setData_data (s : State) (v : Buffer) :
    (s.setData v).data = v := rfl

@[simp] theorem State.setData_busy (s : State) (v : Buffer) :
    (s.setData v).busy = s.busy := rfl

@[simp] theorem State.setData_pending (s : State) (v : Buffer) :
    (s.setData v).pending = s.pending := rfl

@[simp] theorem State.setData_ie (s : State) (v : Buffer) :
    (s.setData v).ie = s.ie := rfl

@[simp] theorem State.setData_done (s : State) (v : Buffer) :
    (s.setData v).done = s.done := rfl

@[simp] theorem State.setData_err (s : State) (v : Buffer) :
    (s.setData v).err = s.err := rfl

@[simp] theorem State.setData_errcode (s : State) (v : Buffer) :
    (s.setData v).errcode = s.errcode := rfl

@[simp] theorem State.setData_moves (s : State) (v : Buffer) :
    (s.setData v).moves = s.moves := rfl

@[simp] theorem State.setData_reads (s : State) (v : Buffer) :
    (s.setData v).reads = s.reads := rfl

@[simp] theorem State.setData_draws (s : State) (v : Buffer) :
    (s.setData v).draws = s.draws := rfl

/-! ## recordError -/

@[simp] theorem State.recordError_f (s : State) (c : ErrorCode) :
    (s.recordError c).f = s.f := rfl

@[simp] theorem State.recordError_p (s : State) (c : ErrorCode) :
    (s.recordError c).p = s.p := rfl

@[simp] theorem State.recordError_cf (s : State) (c : ErrorCode) :
    (s.recordError c).cf = s.cf := rfl

@[simp] theorem State.recordError_data (s : State) (c : ErrorCode) :
    (s.recordError c).data = s.data := rfl

@[simp] theorem State.recordError_busy (s : State) (c : ErrorCode) :
    (s.recordError c).busy = s.busy := rfl

@[simp] theorem State.recordError_pending (s : State) (c : ErrorCode) :
    (s.recordError c).pending = s.pending := rfl

@[simp] theorem State.recordError_ie (s : State) (c : ErrorCode) :
    (s.recordError c).ie = s.ie := rfl

@[simp] theorem State.recordError_done (s : State) (c : ErrorCode) :
    (s.recordError c).done = s.done := rfl

@[simp] theorem State.recordError_err (s : State) (c : ErrorCode) :
    (s.recordError c).err = true := rfl

@[simp] theorem State.recordError_errcode (s : State) (c : ErrorCode) :
    (s.recordError c).errcode = c.toByte := rfl

@[simp] theorem State.recordError_moves (s : State) (c : ErrorCode) :
    (s.recordError c).moves = s.moves := rfl

@[simp] theorem State.recordError_reads (s : State) (c : ErrorCode) :
    (s.recordError c).reads = s.reads := rfl

@[simp] theorem State.recordError_draws (s : State) (c : ErrorCode) :
    (s.recordError c).draws = s.draws := rfl

/-! ## clearError -/

@[simp] theorem State.clearError_f (s : State) :
    (s.clearError).f = s.f := rfl

@[simp] theorem State.clearError_p (s : State) :
    (s.clearError).p = s.p := rfl

@[simp] theorem State.clearError_cf (s : State) :
    (s.clearError).cf = s.cf := rfl

@[simp] theorem State.clearError_data (s : State) :
    (s.clearError).data = s.data := rfl

@[simp] theorem State.clearError_busy (s : State) :
    (s.clearError).busy = s.busy := rfl

@[simp] theorem State.clearError_pending (s : State) :
    (s.clearError).pending = s.pending := rfl

@[simp] theorem State.clearError_ie (s : State) :
    (s.clearError).ie = s.ie := rfl

@[simp] theorem State.clearError_done (s : State) :
    (s.clearError).done = s.done := rfl

@[simp] theorem State.clearError_err (s : State) :
    (s.clearError).err = false := rfl

@[simp] theorem State.clearError_errcode (s : State) :
    (s.clearError).errcode = 0#8 := rfl

@[simp] theorem State.clearError_moves (s : State) :
    (s.clearError).moves = s.moves := rfl

@[simp] theorem State.clearError_reads (s : State) :
    (s.clearError).reads = s.reads := rfl

@[simp] theorem State.clearError_draws (s : State) :
    (s.clearError).draws = s.draws := rfl

/-! ## clearDone -/

@[simp] theorem State.clearDone_f (s : State) :
    (s.clearDone).f = s.f := rfl

@[simp] theorem State.clearDone_p (s : State) :
    (s.clearDone).p = s.p := rfl

@[simp] theorem State.clearDone_cf (s : State) :
    (s.clearDone).cf = s.cf := rfl

@[simp] theorem State.clearDone_data (s : State) :
    (s.clearDone).data = s.data := rfl

@[simp] theorem State.clearDone_busy (s : State) :
    (s.clearDone).busy = s.busy := rfl

@[simp] theorem State.clearDone_pending (s : State) :
    (s.clearDone).pending = s.pending := rfl

@[simp] theorem State.clearDone_ie (s : State) :
    (s.clearDone).ie = s.ie := rfl

@[simp] theorem State.clearDone_done (s : State) :
    (s.clearDone).done = false := rfl

@[simp] theorem State.clearDone_err (s : State) :
    (s.clearDone).err = s.err := rfl

@[simp] theorem State.clearDone_errcode (s : State) :
    (s.clearDone).errcode = s.errcode := rfl

@[simp] theorem State.clearDone_moves (s : State) :
    (s.clearDone).moves = s.moves := rfl

@[simp] theorem State.clearDone_reads (s : State) :
    (s.clearDone).reads = s.reads := rfl

@[simp] theorem State.clearDone_draws (s : State) :
    (s.clearDone).draws = s.draws := rfl

/-! ## accept -/

@[simp] theorem State.accept_f (s : State) (w : Word) :
    (s.accept w).f = s.f := rfl

@[simp] theorem State.accept_p (s : State) (w : Word) :
    (s.accept w).p = s.p := rfl

@[simp] theorem State.accept_cf (s : State) (w : Word) :
    (s.accept w).cf = s.cf := rfl

@[simp] theorem State.accept_data (s : State) (w : Word) :
    (s.accept w).data = s.data := rfl

@[simp] theorem State.accept_busy (s : State) (w : Word) :
    (s.accept w).busy = true := rfl

@[simp] theorem State.accept_pending (s : State) (w : Word) :
    (s.accept w).pending = w := rfl

@[simp] theorem State.accept_ie (s : State) (w : Word) :
    (s.accept w).ie = s.ie := rfl

@[simp] theorem State.accept_done (s : State) (w : Word) :
    (s.accept w).done = s.done := rfl

@[simp] theorem State.accept_err (s : State) (w : Word) :
    (s.accept w).err = s.err := rfl

@[simp] theorem State.accept_errcode (s : State) (w : Word) :
    (s.accept w).errcode = s.errcode := rfl

@[simp] theorem State.accept_moves (s : State) (w : Word) :
    (s.accept w).moves = s.moves := rfl

@[simp] theorem State.accept_reads (s : State) (w : Word) :
    (s.accept w).reads = s.reads := rfl

@[simp] theorem State.accept_draws (s : State) (w : Word) :
    (s.accept w).draws = s.draws := rfl

/-! ## finish -/

@[simp] theorem State.finish_f (s : State) :
    (s.finish).f = s.f := rfl

@[simp] theorem State.finish_p (s : State) :
    (s.finish).p = s.p := rfl

@[simp] theorem State.finish_cf (s : State) :
    (s.finish).cf = s.cf := rfl

@[simp] theorem State.finish_data (s : State) :
    (s.finish).data = s.data := rfl

@[simp] theorem State.finish_busy (s : State) :
    (s.finish).busy = false := rfl

@[simp] theorem State.finish_pending (s : State) :
    (s.finish).pending = s.pending := rfl

@[simp] theorem State.finish_ie (s : State) :
    (s.finish).ie = s.ie := rfl

@[simp] theorem State.finish_done (s : State) :
    (s.finish).done = true := rfl

@[simp] theorem State.finish_err (s : State) :
    (s.finish).err = s.err := rfl

@[simp] theorem State.finish_errcode (s : State) :
    (s.finish).errcode = s.errcode := rfl

@[simp] theorem State.finish_moves (s : State) :
    (s.finish).moves = s.moves := rfl

@[simp] theorem State.finish_reads (s : State) :
    (s.finish).reads = s.reads := rfl

@[simp] theorem State.finish_draws (s : State) :
    (s.finish).draws = s.draws := rfl

/-! ## zeroise -/

@[simp] theorem State.zeroise_f (s : State) :
    (s.zeroise).f = Vector.replicate 16 0 := rfl

@[simp] theorem State.zeroise_p (s : State) :
    (s.zeroise).p = Vector.replicate 8 PointReg.none := rfl

@[simp] theorem State.zeroise_cf (s : State) :
    (s.zeroise).cf = false := rfl

@[simp] theorem State.zeroise_data (s : State) :
    (s.zeroise).data = 0#256 := rfl

@[simp] theorem State.zeroise_busy (s : State) :
    (s.zeroise).busy = false := rfl

@[simp] theorem State.zeroise_pending (s : State) :
    (s.zeroise).pending = 0#32 := rfl

@[simp] theorem State.zeroise_ie (s : State) :
    (s.zeroise).ie = false := rfl

@[simp] theorem State.zeroise_done (s : State) :
    (s.zeroise).done = false := rfl

@[simp] theorem State.zeroise_err (s : State) :
    (s.zeroise).err = false := rfl

@[simp] theorem State.zeroise_errcode (s : State) :
    (s.zeroise).errcode = 0#8 := rfl

@[simp] theorem State.zeroise_moves (s : State) :
    (s.zeroise).moves = s.moves := rfl

@[simp] theorem State.zeroise_reads (s : State) :
    (s.zeroise).reads = s.reads := rfl

@[simp] theorem State.zeroise_draws (s : State) :
    (s.zeroise).draws = s.draws := rfl

/-! ## returned -/

@[simp] theorem State.returned_f (s : State) (v : Word) :
    (s.returned v).f = s.f := rfl

@[simp] theorem State.returned_p (s : State) (v : Word) :
    (s.returned v).p = s.p := rfl

@[simp] theorem State.returned_cf (s : State) (v : Word) :
    (s.returned v).cf = s.cf := rfl

@[simp] theorem State.returned_data (s : State) (v : Word) :
    (s.returned v).data = s.data := rfl

@[simp] theorem State.returned_busy (s : State) (v : Word) :
    (s.returned v).busy = s.busy := rfl

@[simp] theorem State.returned_pending (s : State) (v : Word) :
    (s.returned v).pending = s.pending := rfl

@[simp] theorem State.returned_ie (s : State) (v : Word) :
    (s.returned v).ie = s.ie := rfl

@[simp] theorem State.returned_done (s : State) (v : Word) :
    (s.returned v).done = s.done := rfl

@[simp] theorem State.returned_err (s : State) (v : Word) :
    (s.returned v).err = s.err := rfl

@[simp] theorem State.returned_errcode (s : State) (v : Word) :
    (s.returned v).errcode = s.errcode := rfl

@[simp] theorem State.returned_moves (s : State) (v : Word) :
    (s.returned v).moves = s.moves := rfl

@[simp] theorem State.returned_reads (s : State) (v : Word) :
    (s.returned v).reads = v :: s.reads := rfl

@[simp] theorem State.returned_draws (s : State) (v : Word) :
    (s.returned v).draws = s.draws := rfl

/-! ## returnedFree -/

@[simp] theorem State.returnedFree_f (s : State) :
    (s.returnedFree).f = s.f := rfl

@[simp] theorem State.returnedFree_p (s : State) :
    (s.returnedFree).p = s.p := rfl

@[simp] theorem State.returnedFree_cf (s : State) :
    (s.returnedFree).cf = s.cf := rfl

@[simp] theorem State.returnedFree_data (s : State) :
    (s.returnedFree).data = s.data := rfl

@[simp] theorem State.returnedFree_busy (s : State) :
    (s.returnedFree).busy = s.busy := rfl

@[simp] theorem State.returnedFree_pending (s : State) :
    (s.returnedFree).pending = s.pending := rfl

@[simp] theorem State.returnedFree_ie (s : State) :
    (s.returnedFree).ie = s.ie := rfl

@[simp] theorem State.returnedFree_done (s : State) :
    (s.returnedFree).done = s.done := rfl

@[simp] theorem State.returnedFree_err (s : State) :
    (s.returnedFree).err = s.err := rfl

@[simp] theorem State.returnedFree_errcode (s : State) :
    (s.returnedFree).errcode = s.errcode := rfl

@[simp] theorem State.returnedFree_moves (s : State) :
    (s.returnedFree).moves = s.moves := rfl

@[simp] theorem State.returnedFree_reads (s : State) :
    (s.returnedFree).reads = Config.freeDataRead s.draws :: s.reads := rfl

@[simp] theorem State.returnedFree_draws (s : State) :
    (s.returnedFree).draws = s.draws + 1 := rfl

/-! ## Registers -/

@[simp] theorem State.getF_setF_self (s : State) (i : FReg) (v : Nat) : (s.setF i v).getF i = v := by
  simp [State.getF, State.setF]

theorem State.getF_setF_ne (s : State) (v : Nat) {i j : FReg} (h : j ≠ i) :
    (s.setF i v).getF j = s.getF j := by
  have h' : (i : Nat) ≠ (j : Nat) := fun e => h (Fin.ext e.symm)
  simp [State.getF, State.setF, Vector.getElem_set_ne, h']

@[simp] theorem State.getP_setP_self (s : State) (i : PReg) (v : PointReg) :
    (s.setP i v).getP i = v := by
  simp [State.getP, State.setP]

theorem State.getP_setP_ne (s : State) (v : PointReg) {i j : PReg} (h : j ≠ i) :
    (s.setP i v).getP j = s.getP j := by
  have h' : (i : Nat) ≠ (j : Nat) := fun e => h (Fin.ext e.symm)
  simp [State.getP, State.setP, Vector.getElem_set_ne, h']

@[simp] theorem State.setF_getP (s : State) (i : FReg) (v : Nat) (j : PReg) :
    (s.setF i v).getP j = s.getP j := rfl

@[simp] theorem State.setP_getF (s : State) (i : PReg) (v : PointReg) (j : FReg) :
    (s.setP i v).getF j = s.getF j := rfl

end Sys2Proof.Machine
end

