-- ==== Sys2Proof/Laws/Agents.lean ====
section
/-! SUPPORT. Laws/Agents.lean: one lemma per shared operation of the moves, saying once everything it
can do: the form check, the Complete step, and the host's access. -/

namespace Sys2Proof.Machine

/-! One theorem at a time: many at once take a thread and its stack each. -/
set_option Elab.async false

@[simp] theorem withForm_true (s t : State) : withForm true s t = .next t := rfl

@[simp] theorem withForm_false (s t : State) : withForm false s t = .next (s.recordError .form) := rfl

/-- A form check answers its command's effect, or E_FORM and nothing else (60_exceptions.md R212). -/
theorem withForm_next {accepted : Bool} {s t u : State} (h : withForm accepted s t = .next u) :
    (accepted = true ∧ u = t) ∨ (accepted = false ∧ u = s.recordError .form) := by
  cases accepted
  · exact .inr ⟨rfl, by simpa using h.symm⟩
  · exact .inl ⟨rfl, by simpa using h.symm⟩

@[simp] theorem raise_eq (c : ErrorCode) (s : State) : raise c s = .next (s.recordError c) := rfl

@[simp] theorem finishResult_next (t : State) : finishResult (.next t) = .next t.finish := rfl

/-- The core's turn while idle does nothing (20_memory.md R66). -/
theorem coreTurn_idle {s : State} (h : s.busy = false) : coreTurn s = .next s := by
  simp [coreTurn, h]

theorem coreTurn_busy {s : State} (h : s.busy = true) : coreTurn s = complete s := by
  simp [coreTurn, h]

/-- Complete on a word that decodes (20_memory.md R66). -/
theorem complete_ok {s : State} {i : Instr} (h : decode s.pending = .ok i) :
    complete s = finishResult (exec i s) := by
  simp [complete, execute, h]

/-- Complete on a word that does not (60_exceptions.md R213). -/
theorem complete_error {s : State} {e : DecodeError} (h : decode s.pending = .error e) :
    complete s = .next (s.recordError .illegal).finish := by
  simp [complete, execute, h]

/-- Every word offset of the window holds a register (10_state.md R30). -/
theorem windowReg_isSome {m : Nat} (h : m < 16) : ∃ r, windowReg m = some r := by
  interval_cases m <;> exact ⟨_, rfl⟩

/-- An access is answered exactly when it is an aligned 32-bit access of the window, and then its
whole effect is accessReg (20_memory.md R53, R55). -/
theorem hostAccess_next {a : Access} {s t : State} (h : hostAccess a s = .next t) :
    a.aligned32 ∧ ∃ r, windowReg (a.off / 4) = some r ∧ t = accessReg r a.kind s := by
  simp only [hostAccess] at h
  split at h; · cases h
  split at h; · cases h
  split at h; · cases h
  rename_i hoff hbytes halign
  split at h
  · rename_i r hr
    refine ⟨⟨by omega, by omega, by omega⟩, r, hr, ?_⟩
    simpa using h.symm
  · cases h

theorem hostAccess_aligned {a : Access} (s : State) (h : a.aligned32) {r : WindowReg}
    (hr : windowReg (a.off / 4) = some r) : hostAccess a s = .next (accessReg r a.kind s) := by
  obtain ⟨hoff, hbytes, halign⟩ := h
  have h1 : ¬ 0x40 ≤ a.off := by omega
  simp [hostAccess, h1, hbytes, halign, hr]

theorem nextMove_nil {s : State} (h : s.moves = []) : nextMove s = coreTurn s := by
  simp [nextMove, h]

theorem nextMove_cons {s : State} {m : Move} {rest : List Move} (h : s.moves = m :: rest) :
    nextMove s = doMove m { s with moves := rest } := by
  simp [nextMove, h]

/-- An address at CORE_BASE + off is the window offset off (20_memory.md R51). -/
theorem Access.atAddress_base (off bytes : Nat) (kind : AccessKind) :
    Access.atAddress (Config.coreBase + off) bytes kind = some ⟨off, bytes, kind⟩ := by
  simp [Access.atAddress]

/-- CORE_BASE is a multiple of 0x40 (20_memory.md R51). -/
theorem coreBase_aligned : Config.coreBase % 0x40 = 0 := by
  simp [Config.coreBase]

end Sys2Proof.Machine
end

