-- ==== Sys2Proof/Laws/Exec.lean ====
section
/-! SUPPORT. Laws/Exec.lean: what exec can do, said once: the one destination of a command, an equation
per shape of meaning, and the inversion lemma every frame is read from (00_scope.md R12,
10_state.md R27, 40_field.md R100, 41_group.md R140). -/

namespace Sys2Proof.Machine

/-! One theorem at a time: many at once take a thread and its stack each. -/
set_option Elab.async false

/-- The field register a command writes, if it writes one. -/
def fieldDest : Instr → Option FReg
  | .fzero d | .fone d | .fmov d _ | .fconst d _ | .fadd d _ _ | .fsub d _ _ | .fneg d _
  | .fmul d _ _ | .fsq d _ | .fsq2 d _ | .finv d _ | .fpow22523 d _ | .fsqrtr d _ _ | .fcmov d _
  | .fld d | .pgetc d _ _ => some d
  | .nop | .fisneg _ | .fiszero _ | .fst _ | .pzero _ | .pmov _ _ | .psetc _ _ _ | .pform _ _
  | .pdbl _ _ | .padd _ _ _ | .pmadd _ _ _ | .ptop2 _ _ | .ptop3 _ _ | .ptocached _ _ | .pcmov _ _
  | .penc _ | .pdec _ _ | .psel _ _ _ | .smulb _ | .setcf _ => none

/-- The point register a command writes, if it writes one. -/
def pointDest : Instr → Option PReg
  | .pzero d | .pmov d _ | .psetc d _ _ | .pform d _ | .pdbl d _ | .padd d _ _ | .pmadd d _ _
  | .ptop2 d _ | .ptop3 d _ | .ptocached d _ | .pcmov d _ | .pdec d _ | .psel d _ _
  | .smulb d => some d
  | .nop | .fzero _ | .fone _ | .fmov _ _ | .fconst _ _ | .fadd _ _ _ | .fsub _ _ _ | .fneg _ _
  | .fmul _ _ _ | .fsq _ _ | .fsq2 _ _ | .finv _ _ | .fpow22523 _ _ | .fsqrtr _ _ _ | .fcmov _ _
  | .fld _ | .pgetc _ _ _ | .fisneg _ | .fiszero _ | .fst _ | .penc _ | .setcf _ => none

/-- Does a command write CF (10_state.md R24)? -/
def writesCF : Instr → Bool
  | .fsqrtr _ _ _ | .fisneg _ | .fiszero _ | .pdec _ _ | .setcf _ => true
  | .nop | .fzero _ | .fone _ | .fmov _ _ | .fconst _ _ | .fadd _ _ _ | .fsub _ _ _ | .fneg _ _
  | .fmul _ _ _ | .fsq _ _ | .fsq2 _ _ | .finv _ _ | .fpow22523 _ _ | .fcmov _ _
  | .fld _ | .pgetc _ _ _ | .fst _ | .penc _ | .pzero _ | .pmov _ _ | .psetc _ _ _ | .pform _ _
  | .pdbl _ _ | .padd _ _ _ | .pmadd _ _ _ | .ptop2 _ _ | .ptop3 _ _ | .ptocached _ _ | .pcmov _ _
  | .psel _ _ _ | .smulb _ => false

/-- Does a command write DATA (10_state.md R25)? -/
def writesData : Instr → Bool
  | .fst _ | .penc _ => true
  | .nop | .fzero _ | .fone _ | .fmov _ _ | .fconst _ _ | .fadd _ _ _ | .fsub _ _ _ | .fneg _ _
  | .fmul _ _ _ | .fsq _ _ | .fsq2 _ _ | .finv _ _ | .fpow22523 _ _ | .fsqrtr _ _ _ | .fcmov _ _
  | .fld _ | .pgetc _ _ _ | .fisneg _ | .fiszero _ | .pzero _ | .pmov _ _ | .psetc _ _ _
  | .pform _ _ | .pdbl _ _ | .padd _ _ _ | .pmadd _ _ _ | .ptop2 _ _ | .ptop3 _ _ | .ptocached _ _
  | .pcmov _ _ | .pdec _ _ | .psel _ _ _ | .smulb _ | .setcf _ => false

/-- Everything a command can do to the state: nothing, one destination register (with CF for FSQRTR and
PDEC), CF alone, DATA alone, or one of the three errors a command raises. -/
inductive Effect (i : Instr) (s : State) : State → Prop where
  | nothing : Effect i s s
  | field {r : FReg} (v : Nat) (h : fieldDest i = some r) : Effect i s (s.setF r v)
  | fieldFlag {r : FReg} (v : Nat) (h : fieldDest i = some r) (hc : writesCF i = true) :
      Effect i s ((s.setF r v).setCF true)
  | point {r : PReg} (v : PointReg) (h : pointDest i = some r) : Effect i s (s.setP r v)
  | pointFlag {r : PReg} (v : PointReg) (h : pointDest i = some r) (hc : writesCF i = true) :
      Effect i s ((s.setP r v).setCF true)
  | flag (v : Bool) (hc : writesCF i = true) : Effect i s (s.setCF v)
  | data (v : Buffer) (h : writesData i = true) : Effect i s (s.setData v)
  | error (c : ErrorCode) (h : c ≠ .busy) : Effect i s (s.recordError c)

/-- A form check leaves its command's effect or E_FORM. -/
theorem withForm_effect {i : Instr} {accepted : Bool} {s t : State} (h : Effect i s t) :
    ∃ u, withForm accepted s t = .next u ∧ Effect i s u := by
  cases accepted
  · exact ⟨_, rfl, .error _ (by decide)⟩
  · exact ⟨_, rfl, h⟩

/-- Every command completes, with an effect of the list. -/
theorem exec_effect (i : Instr) (s : State) : ∃ t, exec i s = .next t ∧ Effect i s t := by
  cases i with
  | nop => exact ⟨_, rfl, .nothing⟩
  | fzero | fone | fmov | fconst | fadd | fsub | fneg | fmul | fsq | fsq2 | finv | fpow22523 | fld
  | pgetc => exact ⟨_, rfl, .field _ rfl⟩
  | fsqrtr fd fa fb =>
      refine ⟨_, rfl, ?_⟩
      split
      · exact .fieldFlag _ rfl rfl
      · exact .flag _ rfl
  | fisneg | fiszero | setcf => exact ⟨_, rfl, .flag _ rfl⟩
  | fcmov =>
      refine ⟨_, rfl, ?_⟩
      split
      · exact .field _ rfl
      · exact .nothing
  | fst => exact ⟨_, rfl, .data _ rfl⟩
  | pzero | pmov | psetc | pform => exact ⟨_, rfl, .point _ rfl⟩
  | pcmov =>
      refine ⟨_, rfl, ?_⟩
      split
      · exact .point _ rfl
      · exact .nothing
  | pdbl | padd | pmadd | ptop2 | ptop3 | ptocached => exact withForm_effect (.point _ rfl)
  | penc => exact withForm_effect (.data _ rfl)
  | pdec pd mode =>
      refine ⟨_, rfl, ?_⟩
      split
      · exact .pointFlag _ rfl rfl
      · exact .flag _ rfl
  | psel pd pos dig =>
      simp only [exec, execPsel]
      split
      · exact ⟨_, rfl, .point _ rfl⟩
      · exact ⟨_, rfl, .error _ (by decide)⟩
  | smulb pd =>
      simp only [exec, execSmulb]
      split
      · exact ⟨_, rfl, .error _ (by decide)⟩
      · exact ⟨_, rfl, .point _ rfl⟩

/-- The inversion lemma: a state exec answers is s with one of the effects of the list. -/
theorem exec_cases {i : Instr} {s t : State} (h : exec i s = .next t) : Effect i s t := by
  obtain ⟨u, hu, he⟩ := exec_effect i s
  rw [h] at hu
  cases hu
  exact he

@[simp] theorem execAll_nil (s : State) : execAll [] s = .next s := rfl

/-- A command that answers, then the rest. -/
theorem execAll_cons {i : Instr} {s t : State} (h : exec i s = .next t) (rest : List Instr) :
    execAll (i :: rest) s = execAll rest t := by
  rw [execAll, h]

/-- A list that answers, then another. -/
theorem execAll_append {l : List Instr} {s t : State} (h : execAll l s = .next t) (k : List Instr) :
    execAll (l ++ k) s = execAll k t := by
  induction l generalizing s with
  | nil => cases h; rfl
  | cons i l ih =>
    obtain ⟨u, hu, -⟩ := exec_effect i s
    rw [execAll_cons hu] at h
    rw [List.cons_append, execAll_cons hu]
    exact ih h

/-- Every list of commands completes. -/
theorem execAll_completes (l : List Instr) (s : State) : ∃ t, execAll l s = .next t := by
  induction l generalizing s with
  | nil => exact ⟨s, rfl⟩
  | cons i l ih =>
    obtain ⟨u, hu, -⟩ := exec_effect i s
    rw [execAll_cons hu]
    exact ih u

/-- A field register other than the one written keeps its value. -/
theorem State.setF_getElem_ne {s : State} {r r' : FReg} (v : Nat) (h : r' ≠ r) :
    (s.setF r v).f[r'] = s.f[r'] := by
  have hne : (r : Nat) ≠ (r' : Nat) := fun e => h (Fin.ext e.symm)
  simp [Vector.getElem_set_ne, hne]

/-- A point register other than the one written keeps its value. -/
theorem State.setP_getElem_ne {s : State} {r r' : PReg} (v : PointReg) (h : r' ≠ r) :
    (s.setP r v).p[r'] = s.p[r'] := by
  have hne : (r : Nat) ≠ (r' : Nat) := fun e => h (Fin.ext e.symm)
  simp [Vector.getElem_set_ne, hne]

end Sys2Proof.Machine
end

