-- ==== Sys2Proof/Laws/Engine.lean ====
section
/-! SUPPORT. Laws/Engine.lean: the commands of one addition of the engine's sequence
(42_fixed_base.md R184, R187). -/

namespace Sys2Proof.Machine

/-! One theorem at a time: many at once take a thread and its stack each. -/
set_option Elab.async false

theorem table_form (pos j : Nat) : (table pos j).form = .PRECOMP := rfl

/-- A fold that replaces its accumulator by PRECOMP records only keeps the form. -/
theorem foldl_form_precomp (pos : Nat) (b : Nat) (l : List Nat) {t : PointReg}
    (h : t.form = .PRECOMP) :
    (l.foldl (fun t j => if b = j + 1 then table pos j else t) t).form = .PRECOMP := by
  induction l generalizing t with
  | nil => exact h
  | cons j l ih =>
    refine ih ?_
    by_cases hj : b = j + 1
    · simp [hj, table_form]
    · simp [hj, h]

/-- A selection is always a PRECOMP record (R184). -/
theorem select_form (pos : Nat) (b : Int) : (select pos b).form = .PRECOMP := by
  simp only [select]
  split
  · rfl
  · exact foldl_form_precomp _ _ _ rfl

/-- The state after one addition of a pass. -/
def addSelected (pos : Fin 32) (d : Int) (s : State) : State :=
  let q := select pos.val d
  ((s.setP 2 q).setP 1 (mAdd (s.getP 1) q)).setP 1 (toP3 (mAdd (s.getP 1) q))

/-- Selecting a legal digit and adding it to a P3 sum: the three commands of R187's loop. -/
theorem execAll_addSelected {s : State} {d : Int} (pos : Fin 32) (hd : -8 ≤ d ∧ d ≤ 8)
    (hf : (s.getP 1).form = .P3) (rest : List Instr) :
    execAll (.psel 2 pos d :: .pmadd 1 1 2 :: .ptop3 1 1 :: rest) s =
      execAll rest (addSelected pos d s) := by
  have hsel : exec (.psel 2 pos d) s = .next (s.setP 2 (select pos.val d)) := by
    simp [exec, execPsel, hd]
  have hsum : (s.setP 2 (select pos.val d)).getP 1 = s.getP 1 := by simp [State.getP]
  have hadd : exec (.pmadd 1 1 2) (s.setP 2 (select pos.val d)) =
      .next ((s.setP 2 (select pos.val d)).setP 1 (mAdd (s.getP 1) (select pos.val d))) := by
    have hq : (s.setP 2 (select pos.val d)).getP 2 = select pos.val d := by simp [State.getP]
    simp only [exec, execPmadd, hsum, hq, hasForm, hf, select_form]
    rfl
  rw [execAll_cons hsel, execAll_cons hadd]
  refine execAll_cons ?_ rest
  simp [exec, execPtop3, State.getP, hasForm, mAdd, addSelected]

/-- What one addition of a pass leaves in the sum. -/
@[simp] theorem addSelected_sum (pos : Fin 32) (d : Int) (s : State) :
    (addSelected pos d s).getP 1 = toP3 (mAdd (s.getP 1) (select pos.val d)) := by
  simp [addSelected, State.getP]

end Sys2Proof.Machine
end

