-- ==== Sys2Proof/Laws/FieldArith.lean ====
section
/-! SUPPORT. Laws/FieldArith.lean: the field primitives answer canonical values (10_state.md R21), the
integer forms of subtraction and negation, and the power loop computes the power
(00_scope.md R9, 40_field.md R113). -/

namespace Sys2Proof.Machine

/-! One theorem at a time: many at once take a thread and its stack each. -/
set_option Elab.async false

theorem prime_pos : 0 < prime := by decide

theorem prime_odd : prime % 2 = 1 := by decide

theorem fadd_lt (a b : Nat) : fadd a b < prime := Nat.mod_lt _ prime_pos

theorem fmul_lt (a b : Nat) : fmul a b < prime := Nat.mod_lt _ prime_pos

theorem fsq_lt (a : Nat) : fsq a < prime := Nat.mod_lt _ prime_pos

/-- An integer residue read back as a natural number is below p. -/
theorem emod_toNat_lt (z : Int) : (z % (prime : Int)).toNat < prime := by
  have hp : (0 : Int) < prime := by exact_mod_cast prime_pos
  have h0 := Int.emod_nonneg z hp.ne'
  have h1 := Int.emod_lt_of_pos z hp
  omega

theorem fsub_lt (a b : Nat) : fsub a b < prime := emod_toNat_lt _

theorem fneg_lt (a : Nat) : fneg a < prime := emod_toNat_lt _

/-- An integer residue read back as a natural number is that residue. -/
theorem emod_toNat_cast (z : Int) : (((z % (prime : Int)).toNat : Nat) : Int) = z % (prime : Int) := by
  have hp : (0 : Int) < prime := by exact_mod_cast prime_pos
  exact Int.toNat_of_nonneg (Int.emod_nonneg z hp.ne')

theorem fsub_cast (a b : Nat) : ((fsub a b : Nat) : Int) = ((a : Int) - b) % prime :=
  emod_toNat_cast _

theorem fneg_cast (a : Nat) : ((fneg a : Nat) : Int) = (-(a : Int)) % prime := emod_toNat_cast _

/-- The power loop multiplies the accumulator by the power, modulo p. -/
theorem powLoop_eq (fuel b e acc : Nat) (he : e < 2 ^ fuel) (hacc : acc < prime) :
    powLoop fuel b e acc = acc * b ^ e % prime := by
  induction fuel generalizing b e acc with
  | zero =>
    have : e = 0 := by simpa using he
    simp [powLoop, this, Nat.mod_eq_of_lt hacc]
  | succ fuel ih =>
    have hhalf : e / 2 < 2 ^ fuel := by rw [pow_succ] at he; omega
    have hsquare : (b * b) ^ (e / 2) = b ^ (2 * (e / 2)) := by rw [← pow_two, ← pow_mul]
    rw [powLoop, ih _ _ _ hhalf (by split; exacts [Nat.mod_lt _ prime_pos, hacc])]
    split
    case isTrue hodd =>
      have hsplit : e = 2 * (e / 2) + 1 := by omega
      calc acc * b % prime * (b * b % prime) ^ (e / 2) % prime
          = acc * b * (b * b) ^ (e / 2) % prime :=
            ((Nat.mod_modEq _ _).mul ((Nat.mod_modEq _ _).pow _))
        _ = acc * b ^ e % prime := by
            rw [hsquare]; congr 1; conv_rhs => rw [hsplit, pow_succ]
            ring
    case isFalse heven =>
      have hsplit : 2 * (e / 2) = e := by omega
      calc acc * (b * b % prime) ^ (e / 2) % prime
          = acc * (b * b) ^ (e / 2) % prime :=
            ((Nat.ModEq.refl _).mul ((Nat.mod_modEq _ _).pow _))
        _ = acc * b ^ e % prime := by rw [hsquare, hsplit]

/-- fpow is the power of R9, for every exponent the block uses. -/
theorem fpow_eq (a e : Nat) (he : e < 2 ^ 256) : fpow a e = a ^ e % prime := by
  have h := powLoop_eq 256 a e 1 he (by decide)
  simpa [fpow] using h

theorem fpow_lt (a e : Nat) (he : e < 2 ^ 256) : fpow a e < prime := by
  rw [fpow_eq a e he]; exact Nat.mod_lt _ prime_pos

theorem inverse_exponent_lt : prime - 2 < 2 ^ 256 := by decide

theorem root_exponent_lt : (prime - 5) / 8 < 2 ^ 256 := by decide

theorem finv_lt (a : Nat) : finv a < prime := fpow_lt a _ inverse_exponent_lt

theorem fpow22523_lt (a : Nat) : fpow22523 a < prime := fpow_lt a _ root_exponent_lt

theorem constD_lt : constD < prime := by decide

theorem constD2_lt : constD2 < prime := by decide

theorem constSqrtM1_lt : constSqrtM1 < prime := by decide

/-- A root sqrtRatio finds is canonical. -/
theorem sqrtRatio_lt {u v x : Nat} (h : sqrtRatio u v = some x) : x < prime := by
  simp only [sqrtRatio] at h
  split at h
  · cases h; exact fmul_lt _ _
  · split at h
    · cases h; exact fmul_lt _ _
    · cases h

end Sys2Proof.Machine
end

