-- ==== Sys2Proof/Laws/PerInstr.lean ====
section
/-! SUPPORT. Laws/PerInstr.lean: family TableRow: the word `encode` gives a command lies in the
command's own row of spec/opcode_table.json, whose mask and match are written out here from the
table. One lemma per constructor of Instr. -/

namespace Sys2Proof.Laws.TableRow

/-! One theorem at a time: many at once take a thread and its stack each. -/
set_option Elab.async false

/-- The row's mask and match, from spec/opcode_table.json. -/
def row : Instr → Word × Word
  | .nop => (0xFFFFFFFF#32, 0x00000000#32)
  | .fzero _ => (0xFFFFF0FF#32, 0x00000001#32)
  | .fone _ => (0xFFFFF0FF#32, 0x00000002#32)
  | .fmov _ _ => (0xFFFF00FF#32, 0x00000003#32)
  | .fconst _ _ => (0xFFCFF0FF#32, 0x00000004#32)
  | .fadd _ _ _ => (0xFFF000FF#32, 0x00000008#32)
  | .fsub _ _ _ => (0xFFF000FF#32, 0x00000009#32)
  | .fneg _ _ => (0xFFFF00FF#32, 0x0000000A#32)
  | .fmul _ _ _ => (0xFFF000FF#32, 0x0000000B#32)
  | .fsq _ _ => (0xFFFF00FF#32, 0x0000000C#32)
  | .fsq2 _ _ => (0xFFFF00FF#32, 0x0000000D#32)
  | .finv _ _ => (0xFFFF00FF#32, 0x0000000E#32)
  | .fpow22523 _ _ => (0xFFFF00FF#32, 0x0000000F#32)
  | .fsqrtr _ _ _ => (0xFFF000FF#32, 0x00000010#32)
  | .fisneg _ => (0xFFFF0FFF#32, 0x00000011#32)
  | .fiszero _ => (0xFFFF0FFF#32, 0x00000012#32)
  | .fcmov _ _ => (0xFFFF00FF#32, 0x00000013#32)
  | .fld _ => (0xFFFFF0FF#32, 0x00000018#32)
  | .fst _ => (0xFFFF0FFF#32, 0x00000019#32)
  | .pzero _ => (0xFFFFF8FF#32, 0x00000020#32)
  | .pmov _ _ => (0xFFFF88FF#32, 0x00000021#32)
  | .psetc _ _ _ => (0xFFCF08FF#32, 0x00000022#32)
  | .pgetc _ _ _ => (0xFFCF80FF#32, 0x00000023#32)
  | .pform _ _ => (0xFF8FF8FF#32, 0x00000024#32)
  | .pdbl _ _ => (0xFFFF88FF#32, 0x00000028#32)
  | .padd _ _ _ => (0xFFF888FF#32, 0x00000029#32)
  | .pmadd _ _ _ => (0xFFF888FF#32, 0x0000002A#32)
  | .ptop2 _ _ => (0xFFFF88FF#32, 0x0000002C#32)
  | .ptop3 _ _ => (0xFFFF88FF#32, 0x0000002D#32)
  | .ptocached _ _ => (0xFFFF88FF#32, 0x0000002E#32)
  | .pcmov _ _ => (0xFFFF88FF#32, 0x0000002F#32)
  | .penc _ => (0xFFFF8FFF#32, 0x00000030#32)
  | .pdec _ _ => (0xFFEFF8FF#32, 0x00000031#32)
  | .psel _ _ _ => (0xFFC008FF#32, 0x00000038#32)
  | .smulb _ => (0xFFFFF8FF#32, 0x00000039#32)
  | .setcf _ => (0xFFEFFFFF#32, 0x0000003E#32)

/-- A word of format R with C = 0, under the mask that leaves D, A and B free, is its opcode. -/
theorem encodeR_masked (op : BitVec 8) (d a b : BitVec 4) :
    encodeR op d a b 0#4 &&& 0xFFF000FF#32 = op.setWidth 32 := by
  ext i hi
  simp only [encodeR, BitVec.getElem_and, BitVec.getElem_append, BitVec.getElem_setWidth]
  interval_cases i <;> simp

/-- The word of a well-formed command, under its row's mask, is its row's match. -/
def Statement (i : Instr) : Prop :=
  i.wellFormed = true → encode i &&& (row i).1 = (row i).2

theorem nop : Statement .nop := by
  intro _; decide

theorem fzero (fd : FReg) : Statement (.fzero fd) := by
  intro _; revert fd; decide +kernel

theorem fone (fd : FReg) : Statement (.fone fd) := by
  intro _; revert fd; decide +kernel

theorem fmov (fd : FReg) (fa : FReg) : Statement (.fmov fd fa) := by
  intro _; revert fd fa; decide +kernel

theorem fconst (fd : FReg) (k : CurveConst) : Statement (.fconst fd k) := by
  intro _; cases k <;> (revert fd; decide +kernel)

theorem fadd (fd : FReg) (fa : FReg) (fb : FReg) : Statement (.fadd fd fa fb) := by
  intro _; exact (encodeR_masked _ _ _ _).trans rfl

theorem fsub (fd : FReg) (fa : FReg) (fb : FReg) : Statement (.fsub fd fa fb) := by
  intro _; exact (encodeR_masked _ _ _ _).trans rfl

theorem fneg (fd : FReg) (fa : FReg) : Statement (.fneg fd fa) := by
  intro _; revert fd fa; decide +kernel

theorem fmul (fd : FReg) (fa : FReg) (fb : FReg) : Statement (.fmul fd fa fb) := by
  intro _; exact (encodeR_masked _ _ _ _).trans rfl

theorem fsq (fd : FReg) (fa : FReg) : Statement (.fsq fd fa) := by
  intro _; revert fd fa; decide +kernel

theorem fsq2 (fd : FReg) (fa : FReg) : Statement (.fsq2 fd fa) := by
  intro _; revert fd fa; decide +kernel

theorem finv (fd : FReg) (fa : FReg) : Statement (.finv fd fa) := by
  intro _; revert fd fa; decide +kernel

theorem fpow22523 (fd : FReg) (fa : FReg) : Statement (.fpow22523 fd fa) := by
  intro _; revert fd fa; decide +kernel

theorem fsqrtr (fd : FReg) (fa : FReg) (fb : FReg) : Statement (.fsqrtr fd fa fb) := by
  intro _; exact (encodeR_masked _ _ _ _).trans rfl

theorem fisneg (fa : FReg) : Statement (.fisneg fa) := by
  intro _; revert fa; decide +kernel

theorem fiszero (fa : FReg) : Statement (.fiszero fa) := by
  intro _; revert fa; decide +kernel

theorem fcmov (fd : FReg) (fa : FReg) : Statement (.fcmov fd fa) := by
  intro _; revert fd fa; decide +kernel

theorem fld (fd : FReg) : Statement (.fld fd) := by
  intro _; revert fd; decide +kernel

theorem fst (fa : FReg) : Statement (.fst fa) := by
  intro _; revert fa; decide +kernel

theorem pzero (pd : PReg) : Statement (.pzero pd) := by
  intro _; revert pd; decide +kernel

theorem pmov (pd : PReg) (pa : PReg) : Statement (.pmov pd pa) := by
  intro _; revert pd pa; decide +kernel

theorem psetc (pd : PReg) (fa : FReg) (c : Component) : Statement (.psetc pd fa c) := by
  intro _; cases c <;> (revert pd fa; decide +kernel)

theorem pgetc (fd : FReg) (pa : PReg) (c : Component) : Statement (.pgetc fd pa c) := by
  intro _; cases c <;> (revert fd pa; decide +kernel)

theorem pform (pd : PReg) (form : Form) : Statement (.pform pd form) := by
  intro _; cases form <;> (revert pd; decide +kernel)

theorem pdbl (pd : PReg) (pa : PReg) : Statement (.pdbl pd pa) := by
  intro _; revert pd pa; decide +kernel

theorem padd (pd : PReg) (pa : PReg) (pb : PReg) : Statement (.padd pd pa pb) := by
  intro _; revert pd pa pb; decide +kernel

theorem pmadd (pd : PReg) (pa : PReg) (pb : PReg) : Statement (.pmadd pd pa pb) := by
  intro _; revert pd pa pb; decide +kernel

theorem ptop2 (pd : PReg) (pa : PReg) : Statement (.ptop2 pd pa) := by
  intro _; revert pd pa; decide +kernel

theorem ptop3 (pd : PReg) (pa : PReg) : Statement (.ptop3 pd pa) := by
  intro _; revert pd pa; decide +kernel

theorem ptocached (pd : PReg) (pa : PReg) : Statement (.ptocached pd pa) := by
  intro _; revert pd pa; decide +kernel

theorem pcmov (pd : PReg) (pa : PReg) : Statement (.pcmov pd pa) := by
  intro _; revert pd pa; decide +kernel

theorem penc (pa : PReg) : Statement (.penc pa) := by
  intro _; revert pa; decide +kernel

theorem pdec (pd : PReg) (mode : DecodeMode) : Statement (.pdec pd mode) := by
  intro _; cases mode <;> (revert pd; decide +kernel)

theorem psel (pd : PReg) (pos : Fin 32) (dig : Int) : Statement (.psel pd pos dig) := by
  intro h
  have hd : -8 ≤ dig ∧ dig ≤ 8 := by simpa [Instr.wellFormed, digitLegal] using h
  obtain ⟨h1, h2⟩ := hd
  clear h
  interval_cases dig <;> revert pd pos <;> decide +kernel

theorem smulb (pd : PReg) : Statement (.smulb pd) := by
  intro _; revert pd; decide +kernel

theorem setcf (v : Bool) : Statement (.setcf v) := by
  intro _; cases v <;> decide

end Sys2Proof.Laws.TableRow
end

