-- ==== Sys2Proof/Laws/Points.lean ====
section
/-! SUPPORT. Laws/Points.lean: every record a group or fixed-base command computes has canonical
components (10_state.md R21, R23), whatever the operands of the arithmetic are. -/

namespace Sys2Proof.Machine

/-! One theorem at a time: many at once take a thread and its stack each. -/
set_option Elab.async false

theorem one_lt_prime : 1 < prime := by decide

theorem identityP3_canonical : identityP3.canonical := by decide

theorem precompIdentity_canonical : precompIdentity.canonical := by decide

theorem PointReg.none_canonical : PointReg.none.canonical := by decide

theorem dbl_canonical (a : PointReg) : (dbl a).canonical :=
  ⟨fsub_lt _ _, fadd_lt _ _, fsub_lt _ _, fsub_lt _ _⟩

theorem mAdd_canonical (a b : PointReg) : (mAdd a b).canonical :=
  ⟨fsub_lt _ _, fadd_lt _ _, fadd_lt _ _, fsub_lt _ _⟩

theorem pAdd_canonical (a b : PointReg) : (pAdd a b).canonical :=
  ⟨fsub_lt _ _, fadd_lt _ _, fadd_lt _ _, fsub_lt _ _⟩

theorem toP3_canonical (a : PointReg) : (toP3 a).canonical :=
  ⟨fmul_lt _ _, fmul_lt _ _, fmul_lt _ _, fmul_lt _ _⟩

/-- PTOP2 copies components of a P3 source, so its source must be canonical. -/
theorem toP2_canonical {a : PointReg} (h : a.canonical) : (toP2 a).canonical := by
  simp only [toP2]
  split
  · exact ⟨fmul_lt _ _, fmul_lt _ _, fmul_lt _ _, prime_pos⟩
  · exact ⟨h.1, h.2.1, h.2.2.1, prime_pos⟩

/-- PTOCACHED copies Z. -/
theorem toCached_canonical {a : PointReg} (h : a.canonical) : (toCached a).canonical :=
  ⟨fadd_lt _ _, fsub_lt _ _, h.2.2.1, fmul_lt _ _⟩

theorem precomp_canonical (x y : Nat) : (precomp x y).canonical :=
  ⟨fadd_lt _ _, fsub_lt _ _, fmul_lt _ _, prime_pos⟩

theorem table_canonical (pos j : Nat) : (table pos j).canonical := precomp_canonical _ _

theorem negPrecomp_canonical {t : PointReg} (h : t.canonical) : (negPrecomp t).canonical :=
  ⟨h.2.1, h.1, fneg_lt _, prime_pos⟩

/-- A fold that replaces its accumulator by canonical records only keeps it canonical. -/
theorem foldl_canonical {α : Type} (step : PointReg → α → PointReg)
    (hstep : ∀ t x, t.canonical → (step t x).canonical) (l : List α) {t : PointReg}
    (h : t.canonical) : (l.foldl step t).canonical := by
  induction l generalizing t with
  | nil => exact h
  | cons x l ih => exact ih (hstep t x h)

theorem select_canonical (pos : Nat) (b : Int) : (select pos b).canonical := by
  have hfold : ((List.range 8).foldl
      (fun t j => if b.natAbs = j + 1 then table pos j else t) precompIdentity).canonical :=
    foldl_canonical _ (fun t j ht => by
      by_cases hj : b.natAbs = j + 1
      · rw [if_pos hj]; exact table_canonical _ _
      · rw [if_neg hj]; exact ht) _ precompIdentity_canonical
  simp only [select]
  split
  · exact negPrecomp_canonical hfold
  · exact hfold

theorem accumulate_canonical (offset : Nat) (e : List Int) {h : PointReg} (hh : h.canonical) :
    (accumulate offset e h).canonical :=
  foldl_canonical _ (fun _ _ _ => toP3_canonical _) _ hh

theorem timesSixteen_canonical (h : PointReg) : (timesSixteen h).canonical := toP3_canonical _

theorem fixedBase_canonical (a : Nat) : (fixedBase a).canonical :=
  accumulate_canonical _ _ (timesSixteen_canonical _)

theorem fromBytes_lt (s : Buffer) : fromBytes s < prime := Nat.mod_lt _ prime_pos

theorem chooseSign_lt (mode : DecodeMode) (sign : Bool) {x : Nat} (h : x < prime) :
    chooseSign mode sign x < prime := by
  cases mode <;> simp only [chooseSign] <;> split <;> first | exact fneg_lt _ | exact h

theorem decodePoint_canonical {mode : DecodeMode} {s : Buffer} {q : PointReg}
    (h : decodePoint mode s = some q) : q.canonical := by
  simp only [decodePoint] at h
  split at h
  · cases h
  · rename_i root hroot
    cases h
    exact ⟨chooseSign_lt _ _ (sqrtRatio_lt hroot), fromBytes_lt _, one_lt_prime, fmul_lt _ _⟩

theorem PointReg.get_lt {a : PointReg} (h : a.canonical) (c : Component) : a.get c < prime := by
  cases c
  exacts [h.1, h.2.1, h.2.2.1, h.2.2.2]

theorem PointReg.put_canonical {a : PointReg} (h : a.canonical) (c : Component) {v : Nat}
    (hv : v < prime) : (a.put c v).canonical := by
  cases c
  exacts [⟨hv, h.2⟩, ⟨h.1, hv, h.2.2⟩, ⟨h.1, h.2.1, hv, h.2.2.2⟩, ⟨h.1, h.2.1, h.2.2.1, hv⟩]

/-- Writing a component and reading it back (41_group.md R161, R162). -/
@[simp] theorem PointReg.get_put_self (a : PointReg) (c : Component) (v : Nat) :
    (a.put c v).get c = v := by
  cases c <;> rfl

theorem PointReg.get_put_ne (a : PointReg) (v : Nat) {c k : Component} (h : k ≠ c) :
    (a.put c v).get k = a.get k := by
  cases c <;> cases k <;> first | exact absurd rfl h | rfl

@[simp] theorem PointReg.put_form (a : PointReg) (c : Component) (v : Nat) :
    (a.put c v).form = a.form := by
  cases c <;> rfl

/-- Writing canonical values keeps the register files canonical. -/
theorem State.setF_canonical {s : State} (h : s.canonical) (i : FReg) {v : Nat} (hv : v < prime) :
    (s.setF i v).canonical := by
  refine ⟨fun j => ?_, h.2⟩
  by_cases hj : j = i
  · subst hj; simpa [State.setF] using hv
  · have hne : (i : Nat) ≠ (j : Nat) := fun e => hj (Fin.ext e.symm)
    simpa [State.setF, Vector.getElem_set_ne, hne] using h.1 j

theorem State.setP_canonical {s : State} (h : s.canonical) (i : PReg) {v : PointReg}
    (hv : v.canonical) : (s.setP i v).canonical := by
  refine ⟨h.1, fun j => ?_⟩
  by_cases hj : j = i
  · subst hj; simpa [State.setP] using hv
  · have hne : (i : Nat) ≠ (j : Nat) := fun e => hj (Fin.ext e.symm)
    simpa [State.setP, Vector.getElem_set_ne, hne] using h.2 j

end Sys2Proof.Machine
end

