-- ==== Sys2Proof/Laws/Prime.lean ====
section
/-! SUPPORT. Laws/Prime.lean: p = 2^255 - 19 is prime (00_scope.md R7), by a chain of Lucas
certificates, so that residues modulo p form a field (40_field.md R120). -/

namespace Sys2Proof.Machine

/-! One theorem at a time: evaluating many at once takes a thread and its stack for each. -/
set_option Elab.async false

/-- `acc * b ^ e` modulo `n` by squaring, over the low `fuel` bits of `e`. -/
def powMod (n : Nat) : (fuel b e acc : Nat) → Nat
  | 0, _, _, acc => acc
  | fuel + 1, b, e, acc =>
      powMod n fuel (b * b % n) (e / 2) (if e % 2 = 1 then acc * b % n else acc)

theorem powMod_cast (n : Nat) (fuel b e acc : Nat) (he : e < 2 ^ fuel) :
    ((powMod n fuel b e acc : Nat) : ZMod n) = acc * (b : ZMod n) ^ e := by
  induction fuel generalizing b e acc with
  | zero =>
    have : e = 0 := by simpa using he
    simp [powMod, this]
  | succ fuel ih =>
    have hhalf : e / 2 < 2 ^ fuel := by rw [pow_succ] at he; omega
    rw [powMod, ih _ _ _ hhalf, ZMod.natCast_mod, Nat.cast_mul, ← pow_two, ← pow_mul]
    split
    case isTrue hodd =>
      conv_rhs => rw [show e = 2 * (e / 2) + 1 by omega, pow_succ]
      rw [ZMod.natCast_mod, Nat.cast_mul]
      ring
    case isFalse heven =>
      conv_rhs => rw [show e = 2 * (e / 2) by omega]

/-- A Lucas certificate for `n` with the witness `a` and the primes `fs` dividing `n - 1`. -/
def lucasCheck (n a : Nat) (fs : List Nat) : Bool :=
  decide (1 < n) && decide (n < 2 ^ 256) && powMod n 256 a (n - 1) 1 % n == 1 &&
    fs.all (fun q => powMod n 256 a ((n - 1) / q) 1 % n != 1) &&
    decide (fs.prod ^ 256 % (n - 1) = 0)

theorem prime_of_lucasCheck {n a : Nat} {fs : List Nat} (hfs : ∀ q ∈ fs, q.Prime)
    (h : lucasCheck n a fs = true) : n.Prime := by
  simp only [lucasCheck, Bool.and_eq_true, decide_eq_true_eq, beq_iff_eq, List.all_eq_true,
    bne_iff_ne] at h
  obtain ⟨⟨⟨⟨hn, hsize⟩, hone⟩, hroots⟩, hprod⟩ := h
  have hcast : ∀ e < 2 ^ 256, powMod n 256 a e 1 % n = 1 ↔ (a : ZMod n) ^ e = 1 := by
    intro e he
    have hpow := powMod_cast n 256 a e 1 he
    rw [Nat.cast_one, one_mul] at hpow
    have hiff := ZMod.natCast_eq_natCast_iff' (powMod n 256 a e 1) 1 n
    rw [Nat.cast_one, Nat.mod_eq_of_lt hn] at hiff
    rw [← hpow, hiff]
  refine lucas_primality n (a : ZMod n) ((hcast _ (by omega)).mp hone) fun q hq hdvd => ?_
  have hmem : q ∈ fs := by
    have hd : q ∣ fs.prod := hq.dvd_of_dvd_pow (hdvd.trans (Nat.dvd_of_mod_eq_zero hprod))
    obtain ⟨r, hr, hqr⟩ := (Nat.Prime.prime hq).dvd_prod_iff.mp hd
    rwa [(Nat.prime_dvd_prime_iff_eq hq (hfs r hr)).mp hqr]
  have hlt : (n - 1) / q < 2 ^ 256 := (Nat.div_le_self _ _).trans_lt (by omega)
  exact fun e => hroots q hmem ((hcast _ hlt).mpr e)

/-! ## The chain of certificates -/

theorem prime_31757755568855353 : Nat.Prime 31757755568855353 :=
  prime_of_lucasCheck (a := 10) (fs := [2, 3, 31, 107, 223, 4153, 430751])
    (by simp; norm_num) (by decide +kernel)

theorem prime_2773320623 : Nat.Prime 2773320623 :=
  prime_of_lucasCheck (a := 5) (fs := [2, 2437, 569003]) (by simp; norm_num) (by decide +kernel)

theorem prime_72106336199 : Nat.Prime 72106336199 :=
  prime_of_lucasCheck (a := 7) (fs := [2, 13, 2773320623])
    (by simp only [List.forall_mem_cons]; exact ⟨by norm_num, by norm_num, prime_2773320623, by simp⟩)
    (by decide +kernel)

theorem prime_8574133 : Nat.Prime 8574133 :=
  prime_of_lucasCheck (a := 2) (fs := [2, 3, 7, 103, 991]) (by simp; norm_num) (by decide +kernel)

theorem prime_1919519569386763 : Nat.Prime 1919519569386763 :=
  prime_of_lucasCheck (a := 2) (fs := [2, 3, 7, 19, 47, 127, 8574133])
    (by
      simp only [List.forall_mem_cons]
      exact ⟨by norm_num, by norm_num, by norm_num, by norm_num, by norm_num, by norm_num,
        prime_8574133, by simp⟩)
    (by decide +kernel)

theorem prime_75445702479781427272750846543864801 :
    Nat.Prime 75445702479781427272750846543864801 :=
  prime_of_lucasCheck (a := 7) (fs := [2, 3, 5, 75707, 72106336199, 1919519569386763])
    (by
      simp only [List.forall_mem_cons]
      exact ⟨by norm_num, by norm_num, by norm_num, by norm_num, prime_72106336199,
        prime_1919519569386763, by simp⟩)
    (by decide +kernel)

theorem prime_of_the_last_factor :
    Nat.Prime 74058212732561358302231226437062788676166966415465897661863160754340907 :=
  prime_of_lucasCheck (a := 2)
    (fs := [2, 3, 353, 57467, 132049, 1923133, 31757755568855353,
      75445702479781427272750846543864801])
    (by
      simp only [List.forall_mem_cons]
      exact ⟨by norm_num, by norm_num, by norm_num, by norm_num, by norm_num, by norm_num,
        prime_31757755568855353, prime_75445702479781427272750846543864801, by simp⟩)
    (by decide +kernel)

/-- p is prime. -/
theorem prime_prime : Nat.Prime prime :=
  prime_of_lucasCheck (a := 2)
    (fs := [2, 3, 65147,
      74058212732561358302231226437062788676166966415465897661863160754340907])
    (by
      simp only [List.forall_mem_cons]
      exact ⟨by norm_num, by norm_num, by norm_num, prime_of_the_last_factor, by simp⟩)
    (by decide +kernel)

end Sys2Proof.Machine
end

