-- ==== Sys2Proof/Laws/Residues.lean ====
section
/-! SUPPORT. Laws/Residues.lean: the primitives of 00_scope.md R9 as the operations of the field ZMod p, and
that d is no square (41_group.md R143), from which the number-theoretic claims follow. -/

namespace Sys2Proof.Machine

/-! One theorem at a time: evaluating many at once takes a thread and its stack for each. -/
set_option Elab.async false

theorem prime_fact : Fact (Nat.Prime prime) := ⟨prime_prime⟩

/-- Canonical values are equal when they are equal in the field. -/
theorem eq_of_cast_eq {a b : Nat} (ha : a < prime) (hb : b < prime)
    (h : (a : ZMod prime) = (b : ZMod prime)) : a = b := by
  rw [ZMod.natCast_eq_natCast_iff', Nat.mod_eq_of_lt ha, Nat.mod_eq_of_lt hb] at h
  exact h

/-- An integer residue read back as a natural number is that residue in the field. -/
theorem cast_emod_toNat (z : Int) :
    (((z % (prime : Int)).toNat : Nat) : ZMod prime) = (z : ZMod prime) := by
  have h := congrArg (fun x : Int => (x : ZMod prime)) (emod_toNat_cast z)
  rw [Int.cast_natCast, ZMod.intCast_mod] at h
  exact h

theorem cast_fadd (a b : Nat) : ((fadd a b : Nat) : ZMod prime) = a + b := by simp [fadd]

theorem cast_fsub (a b : Nat) : ((fsub a b : Nat) : ZMod prime) = a - b := by
  rw [fsub, cast_emod_toNat]; simp

theorem cast_fneg (a : Nat) : ((fneg a : Nat) : ZMod prime) = -a := by
  rw [fneg, cast_emod_toNat]; simp

theorem cast_fmul (a b : Nat) : ((fmul a b : Nat) : ZMod prime) = a * b := by simp [fmul]

theorem cast_fsq (a : Nat) : ((fsq a : Nat) : ZMod prime) = (a : ZMod prime) ^ 2 := by simp [fsq]

theorem cast_fpow (a e : Nat) (he : e < 2 ^ 256) :
    ((fpow a e : Nat) : ZMod prime) = (a : ZMod prime) ^ e := by
  rw [fpow_eq a e he]; simp

theorem cast_fpow22523 (a : Nat) :
    ((fpow22523 a : Nat) : ZMod prime) = (a : ZMod prime) ^ ((prime - 5) / 8) :=
  cast_fpow a _ root_exponent_lt

/-- FINV is division in the field, with 0 at 0 (40_field.md R111). -/
theorem cast_finv (a : Nat) : ((finv a : Nat) : ZMod prime) = (a : ZMod prime)⁻¹ := by
  have := prime_fact
  rw [finv, cast_fpow a _ inverse_exponent_lt]
  by_cases h : (a : ZMod prime) = 0
  · rw [h, inv_zero, zero_pow (by decide)]
  · refine eq_inv_of_mul_eq_one_left ?_
    rw [← pow_succ, show prime - 2 + 1 = prime - 1 from by decide]
    exact ZMod.pow_card_sub_one_eq_one h

/-- D2 is twice d. -/
theorem cast_constD2 : ((constD2 : Nat) : ZMod prime) = 2 * (constD : Nat) := by
  have h : constD2 = 2 * constD % prime := by decide
  rw [h]; simp

/-- SQRTM1 is a root of -1. -/
theorem cast_constSqrtM1_sq : ((constSqrtM1 : Nat) : ZMod prime) ^ 2 = -1 := by
  have h : constSqrtM1 ^ 2 % prime = (prime - 1) % prime := by decide +kernel
  have hc : ((constSqrtM1 ^ 2 : Nat) : ZMod prime) = ((prime - 1 : Nat) : ZMod prime) := by
    rw [ZMod.natCast_eq_natCast_iff']; exact h
  rw [Nat.cast_sub (by decide)] at hc
  simpa using hc

/-- d is not a square in GF(p). -/
theorem constD_not_square : ¬ IsSquare ((constD : Nat) : ZMod prime) := by
  have := prime_fact
  have hpow : fpow constD (prime / 2) = prime - 1 := by decide +kernel
  have hc := cast_fpow constD (prime / 2) (by decide)
  rw [hpow, Nat.cast_sub (by decide)] at hc
  have hne : ((constD : Nat) : ZMod prime) ≠ 0 := by
    rw [Ne, ZMod.natCast_eq_zero_iff]
    decide
  intro hsq
  rw [(ZMod.euler_criterion prime hne).mp hsq] at hc
  simp only [ZMod.natCast_self, Nat.cast_one, zero_sub] at hc
  have htwo : ((2 : Nat) : ZMod prime) = 0 := by
    push_cast
    linear_combination -hc
  rw [ZMod.natCast_eq_zero_iff] at htwo
  exact absurd htwo (by decide)

end Sys2Proof.Machine
end

