-- ==== Sys2Proof/Laws/Step.lean ====
section
/-! SUPPORT. Laws/Step.lean: the inversion lemma of step: everything one step can do
(20_memory.md R53, R54, R66, 70_reset_and_hazards.md R240). -/

namespace Sys2Proof.Machine

/-! One theorem at a time: many at once take a thread and its stack each. -/
set_option Elab.async false

/-- Everything a step that answers a next state can have done. -/
inductive Stepped (s : State) : State → Prop where
  /-- The core's turn with nothing pending. -/
  | idle {rest : List Move} (h : s.coreNext rest) (hb : s.busy = false) :
      Stepped s { s with moves := rest }
  /-- The Complete step of a word that decodes. -/
  | command {rest : List Move} {i : Instr} {u : State} (h : s.coreNext rest) (hb : s.busy = true)
      (hd : decode s.pending = .ok i) (hu : exec i { s with moves := rest } = .next u) :
      Stepped s u.finish
  /-- The Complete step of a word that does not. -/
  | illegal {rest : List Move} {e : DecodeError} (h : s.coreNext rest) (hb : s.busy = true)
      (hd : decode s.pending = .error e) :
      Stepped s (State.recordError { s with moves := rest } .illegal).finish
  /-- A host access. -/
  | access {rest : List Move} {a : Access} {r : WindowReg} (h : s.moves = .host a :: rest)
      (ha : a.aligned32) (hr : windowReg (a.off / 4) = some r) :
      Stepped s (accessReg r a.kind { s with moves := rest })
  /-- A hard reset. -/
  | reset {rest : List Move} (h : s.moves = .hardReset :: rest) :
      Stepped s (State.zeroise { s with moves := rest })

/-- When the next move is the core's, a step is its turn. -/
theorem step_coreNext {s : State} {rest : List Move} (h : s.coreNext rest) :
    step s = coreTurn { s with moves := rest } := by
  rcases h with h | ⟨h, rfl⟩
  · simp [step, nextMove_cons h, doMove]
  · have : { s with moves := [] } = s := by cases s; simp_all
    rw [step, nextMove_nil h, this]

/-- The core's turn, inverted. -/
theorem coreTurn_cases {s t : State} {rest : List Move} (h : s.coreNext rest)
    (ht : coreTurn { s with moves := rest } = .next t) : Stepped s t := by
  cases hb : s.busy
  case false =>
    rw [coreTurn_idle (s := { s with moves := rest }) hb] at ht
    cases ht
    exact .idle h hb
  case true =>
    rw [coreTurn_busy (s := { s with moves := rest }) hb] at ht
    cases hd : decode s.pending
    case error e =>
      rw [complete_error (s := { s with moves := rest }) hd] at ht
      cases ht
      exact .illegal h hb hd
    case ok i =>
      rw [complete_ok (s := { s with moves := rest }) hd] at ht
      obtain ⟨u, hu, -⟩ := exec_effect i { s with moves := rest }
      rw [hu] at ht
      cases ht
      exact .command h hb hd hu

/-- The inversion lemma of step. -/
theorem step_cases {s t : State} (ht : step s = .next t) : Stepped s t := by
  cases hm : s.moves with
  | nil =>
    have h : s.coreNext [] := .inr ⟨hm, rfl⟩
    exact coreTurn_cases h (by rw [← step_coreNext h]; exact ht)
  | cons m rest =>
    cases m with
    | coreTurn =>
      have h : s.coreNext rest := .inl hm
      exact coreTurn_cases h (by rw [← step_coreNext h]; exact ht)
    | host a =>
      rw [step, nextMove_cons hm] at ht
      obtain ⟨ha, r, hr, rfl⟩ := hostAccess_next ht
      exact .access hm ha hr
    | hardReset =>
      rw [step, nextMove_cons hm] at ht
      cases ht
      exact .reset hm
    | otherMaster a =>
      rw [step, nextMove_cons hm] at ht
      cases ht

/-- A register of the window stands at one word offset, or is reserved. -/
theorem windowReg_off {m : Nat} {r : WindowReg} (h : windowReg m = some r) :
    match r with
    | .id => m = 0
    | .ctrl => m = 1
    | .status => m = 2
    | .cmd => m = 3
    | .reserved => 4 ≤ m ∧ m ≤ 7
    | .data k => m = 8 + k.val := by
  have hm : m < 16 := by
    by_contra hm
    have : windowReg m = none := by
      obtain ⟨j, rfl⟩ : ∃ j, m = j + 16 := ⟨m - 16, by omega⟩
      rfl
    rw [this] at h
    cases h
  interval_cases m <;> cases h <;> decide

end Sys2Proof.Machine
end

