-- ==== Sys2Proof/Laws/Window.lean ====
section
/-! SUPPORT. Laws/Window.lean: the bits of the words the host sees: STATUS, CTRL and DATAk
(10_state.md R32, R33, R35). -/

namespace Sys2Proof.Machine

/-! One theorem at a time: many at once take a thread and its stack each. -/
set_option Elab.async false

/-- A bit of an appended vector below the low part's width. -/
theorem append_low {w v : Nat} (x : BitVec w) (y : BitVec v) {i : Nat} (h : i < v) :
    (x ++ y).getLsbD i = y.getLsbD i := by
  rw [BitVec.getLsbD_append, if_pos h]

/-- A bit of an appended vector above the low part's width. -/
theorem append_high {w v : Nat} (x : BitVec w) (y : BitVec v) {i : Nat} (h : v ≤ i) :
    (x ++ y).getLsbD i = x.getLsbD (i - v) := by
  rw [BitVec.getLsbD_append, if_neg (by omega)]

/-- A flag as one bit, read. -/
theorem flagBit_zero (b : Bool) : (flagBit b).getLsbD 0 = b := by cases b <;> rfl

/-- STATUS bit 0 is BUSY (10_state.md R33). -/
theorem statusWord_busy (s : State) : (statusWord s).getLsbD 0 = s.busy := by
  rw [statusWord, append_low _ _ (by decide), flagBit_zero]

/-- STATUS bit 1 is DONE. -/
theorem statusWord_done (s : State) : (statusWord s).getLsbD 1 = s.done := by
  rw [statusWord, append_high _ _ (by decide), append_low _ _ (by decide)]; exact flagBit_zero _

/-- STATUS bit 2 is ERR. -/
theorem statusWord_err (s : State) : (statusWord s).getLsbD 2 = s.err := by
  rw [statusWord, append_high _ _ (by decide), append_high _ _ (by decide), append_low _ _ (by decide)]
  exact flagBit_zero _

/-- STATUS bit 3 is CF. -/
theorem statusWord_cf (s : State) : (statusWord s).getLsbD 3 = s.cf := by
  rw [statusWord, append_high _ _ (by decide), append_high _ _ (by decide), append_high _ _ (by decide), append_low _ _ (by decide)]
  exact flagBit_zero _

/-- STATUS bits 15:8 are ERRCODE. -/
theorem statusWord_errcode (s : State) : (statusWord s).extractLsb' 8 8 = s.errcode := by
  apply BitVec.eq_of_getLsbD_eq
  intro i hi
  rw [BitVec.getLsbD_extractLsb']
  simp only [hi, decide_true, Bool.true_and]
  rw [statusWord, append_high _ _ (by omega), append_high _ _ (by omega), append_high _ _ (by omega), append_high _ _ (by omega), append_high _ _ (by omega), append_low _ _ (by omega)]
  congr 1; omega

/-- STATUS bits 7:4 read 0. -/
theorem statusWord_low (s : State) : (statusWord s).extractLsb' 4 4 = 0#4 := by
  apply BitVec.eq_of_getLsbD_eq
  intro i hi
  rw [BitVec.getLsbD_extractLsb']
  simp only [hi, decide_true, Bool.true_and]
  rw [statusWord, append_high _ _ (by omega), append_high _ _ (by omega), append_high _ _ (by omega), append_high _ _ (by omega),  append_low _ _ (by omega)]
  simp

/-- STATUS bits 31:16 read 0. -/
theorem statusWord_high (s : State) : (statusWord s).extractLsb' 16 16 = 0#16 := by
  apply BitVec.eq_of_getLsbD_eq
  intro i hi
  rw [BitVec.getLsbD_extractLsb']
  simp only [hi, decide_true, Bool.true_and]
  rw [statusWord, append_high _ _ (by omega), append_high _ _ (by omega), append_high _ _ (by omega), append_high _ _ (by omega), append_high _ _ (by omega), append_high _ _ (by omega)]
  simp

/-- CTRL reads IE and nothing else (10_state.md R32). -/
theorem ctrlWord_eq (s : State) : ctrlWord s = if s.ie then 1#32 else 0#32 := by
  unfold ctrlWord; cases s.ie <;> rfl

/-- The bits of DATAk as read (10_state.md R35). -/
theorem getLsbD_dataWord (v : Buffer) (k : Fin 8) (i : Nat) :
    (dataWord v k).getLsbD i = (decide (i < 32) && v.getLsbD (32 * k.val + i)) := by
  simp [dataWord]

/-- The bits of DATA after a write of DATAk: those of the word, and the others as before
(10_state.md R35). -/
theorem getLsbD_putDataWord (v : Buffer) (k : Fin 8) (w : Word) (i : Nat) (hi : i < 256) :
    (putDataWord v k w).getLsbD i =
      if i / 32 = k.val then w.getLsbD (i - 32 * k.val) else v.getLsbD i := by
  have hk := k.isLt
  have hmask : (0xFFFFFFFF#256 <<< (32 * k.val)).getLsbD i = decide (i / 32 = k.val) := by
    rw [BitVec.getLsbD_shiftLeft]
    have : (0xFFFFFFFF#256).getLsbD (i - 32 * k.val) = decide (i - 32 * k.val < 32) := by
      rw [show (0xFFFFFFFF#256) = (BitVec.allOnes 32).setWidth 256 from by decide, BitVec.getLsbD_setWidth, BitVec.getLsbD_allOnes]
      by_cases h : i - 32 * k.val < 32 <;> simp [h] ; omega
    rw [this]
    by_cases h : i / 32 = k.val
    · have h1 : 32 * k.val ≤ i ∧ i < 32 * k.val + 32 := by omega
      simp [h, hi]; omega
    · simp [h, hi]; omega
  simp only [putDataWord, BitVec.getLsbD_or, BitVec.getLsbD_and, BitVec.getLsbD_not, hmask, BitVec.getLsbD_shiftLeft, BitVec.getLsbD_setWidth, hi, decide_true, Bool.true_and]
  by_cases h : i / 32 = k.val
  · have h1 : ¬ i < 32 * k.val := by omega
    have h2 : i - 32 * k.val < 256 := by omega
    simp [h, h1, h2]
  · simp only [h, if_false]
    have : i < 32 * k.val ∨ 32 ≤ i - 32 * k.val := by omega
    rcases this with h2 | h2
    · simp [h2]
    · rw [show w.getLsbD (i - 32 * k.val) = false from BitVec.getLsbD_of_ge _ _ h2]; simp

end Sys2Proof.Machine
end

