-- ==== Sys2Proof/Tests/Slice0.lean ====
section
/-! SUPPORT. Tests/Slice0.lean: small tests of the model against the spec's own words and vectors
(30_encoding.md R91, 95_test_vectors.md), the smoke test of WellFormed, and for every obligation with
hypotheses a witness that meets them. -/

namespace Sys2Proof.Tests

open Sys2Proof Sys2Proof.Machine

/-! One theorem at a time: evaluating many at once takes a thread and its stack for each. -/
set_option Elab.async false

/-! ## WellFormed refuses what no word encodes (30_encoding.md R86) -/

theorem test_wellFormed_digit_9 : (Instr.psel 0 0 9).wellFormed = false := by decide

theorem test_wellFormed_digit_minus_9 : (Instr.psel 0 0 (-9)).wellFormed = false := by decide

theorem test_wellFormed_digit_8 : (Instr.psel 0 31 8).wellFormed = true := by decide

theorem test_wellFormed_digit_minus_8 : (Instr.psel 7 0 (-8)).wellFormed = true := by decide

/-! ## Decoding: a word of every command, from 95_test_vectors.md part 2 and 30_encoding.md R91 -/

theorem test_decode_nop : decodeTableWord 32 0x00000000 = some .nop := by decide

theorem test_decode_fzero : decodeTableWord 32 0x00000301 = some (.fzero 3) := by decide

theorem test_decode_fone : decodeTableWord 32 0x00000002 = some (.fone 0) := by decide

theorem test_decode_fmov : decodeTableWord 32 0x00001203 = some (.fmov 2 1) := by decide

theorem test_decode_fconst : decodeTableWord 32 0x00100704 = some (.fconst 7 .d2) := by decide

theorem test_decode_fadd : decodeTableWord 32 0x00021308 = some (.fadd 3 1 2) := by decide

theorem test_decode_fsub : decodeTableWord 32 0x00021309 = some (.fsub 3 1 2) := by decide

theorem test_decode_fneg : decodeTableWord 32 0x0000440A = some (.fneg 4 4) := by decide

theorem test_decode_fmul : decodeTableWord 32 0x0002100B = some (.fmul 0 1 2) := by decide

theorem test_decode_fsq : decodeTableWord 32 0x0000110C = some (.fsq 1 1) := by decide

theorem test_decode_fsq2 : decodeTableWord 32 0x0000120D = some (.fsq2 2 1) := by decide

theorem test_decode_finv : decodeTableWord 32 0x0000500E = some (.finv 0 5) := by decide

theorem test_decode_fpow22523 : decodeTableWord 32 0x0000110F = some (.fpow22523 1 1) := by decide

theorem test_decode_fsqrtr : decodeTableWord 32 0x00021010 = some (.fsqrtr 0 1 2) := by decide

theorem test_decode_fisneg : decodeTableWord 32 0x00003011 = some (.fisneg 3) := by decide

theorem test_decode_fiszero : decodeTableWord 32 0x00004012 = some (.fiszero 4) := by decide

theorem test_decode_fcmov : decodeTableWord 32 0x00002113 = some (.fcmov 1 2) := by decide

theorem test_decode_fld : decodeTableWord 32 0x00000218 = some (.fld 2) := by decide

theorem test_decode_fst : decodeTableWord 32 0x00000019 = some (.fst 0) := by decide

theorem test_decode_pzero : decodeTableWord 32 0x00000720 = some (.pzero 7) := by decide

theorem test_decode_pmov : decodeTableWord 32 0x00000121 = some (.pmov 1 0) := by decide

theorem test_decode_psetc : decodeTableWord 32 0x00309122 = some (.psetc 1 9 .c3) := by decide

theorem test_decode_pgetc : decodeTableWord 32 0x00106223 = some (.pgetc 2 6 .c1) := by decide

theorem test_decode_pform : decodeTableWord 32 0x00200024 = some (.pform 0 .P3) := by decide

theorem test_decode_pdbl : decodeTableWord 32 0x00000128 = some (.pdbl 1 0) := by decide

theorem test_decode_padd : decodeTableWord 32 0x00010229 = some (.padd 2 0 1) := by decide

theorem test_decode_pmadd : decodeTableWord 32 0x0005022A = some (.pmadd 2 0 5) := by decide

theorem test_decode_ptop2 : decodeTableWord 32 0x0000112C = some (.ptop2 1 1) := by decide

theorem test_decode_ptop3 : decodeTableWord 32 0x0000112D = some (.ptop3 1 1) := by decide

theorem test_decode_ptocached : decodeTableWord 32 0x0000032E = some (.ptocached 3 0) := by decide

theorem test_decode_pcmov : decodeTableWord 32 0x0000212F = some (.pcmov 1 2) := by decide

theorem test_decode_penc : decodeTableWord 32 0x00002030 = some (.penc 2) := by decide

theorem test_decode_pdec : decodeTableWord 32 0x00100031 = some (.pdec 0 .negated) := by decide

theorem test_decode_psel : decodeTableWord 32 0x003E0038 = some (.psel 0 0 (-1)) := by decide

theorem test_decode_smulb : decodeTableWord 32 0x00000039 = some (.smulb 0) := by decide

theorem test_decode_setcf : decodeTableWord 32 0x0010003E = some (.setcf true) := by decide

/-- The field layouts R81 and R82, bit by bit, on the fields 31:24, 23:20, 19:16, 15:12, 11:8, 7:0 of
FADD f3, f1, f2 and the fields 31:22, 21:17, 16:12, 11:8, 7:0 of PSEL p3, 31, -8. -/
theorem test_decode_layouts :
    decode (0b00000000#8 ++ 0b0000#4 ++ 0b0010#4 ++ 0b0001#4 ++ 0b0011#4 ++ 0b00001000#8) =
      .ok (.fadd 3 1 2) ∧
    decode (0b0000000000#10 ++ 0b11000#5 ++ 0b11111#5 ++ 0b0011#4 ++ 0b00111000#8) =
      .ok (.psel 3 31 (-8)) := by decide

/-! ## Words that decode to nothing (95_test_vectors.md section 2.5 and the rows of 2.2 to 2.4) -/

theorem test_illegal_words :
    [0x00000005, 0x000000FF, 0x01000000, 0x00000811,
      0x00008028, 0x0000082D, 0x00300004, 0x00100008, 0x00400022,
      0x00008021, 0x00003111, 0x00200031, 0x00600024, 0x00120038,
      0x002E0038, 0x00420038, 0x00020838, 0x0020003E, 0x00000100].all
      (fun w => (decodeTableWord 32 w).isNone) = true := by decide

/-! ## Helpers -/

/-- The state one step after the command word `w` is placed next. -/
def after (w : Nat) (s : State) : State :=
  match step (s.withFetchWord 32 w) with
  | .next t => t
  | .fault _ => s
  | .refused _ => s

/-- The state a meaning answers. -/
def nextOf (r : Result) : State :=
  match r with
  | .next t => t
  | .fault _ => State.reset
  | .refused _ => State.reset

/-- After reset, with F[1] = a and F[2] = b. -/
def field (a b : Nat) : State := (State.reset.setF 1 a).setF 2 b

/-- After reset, with DATA = v. -/
def data (v : Buffer) : State := State.reset.setData v

/-- After reset, with P[0] = a and P[1] = b. -/
def points (a b : PointReg) : State := (State.reset.setP 0 a).setP 1 b

/-- Bp3 (95_test_vectors.md section 0). -/
def bp3 : PointReg :=
  ⟨.P3, 0x216936d3cd6e53fec0a4e231fdd6dc5c692cc7609525a7b2c9562d608f25d51a,
    0x6666666666666666666666666666666666666666666666666666666666666658, 1,
    0x67875f0fd78b766566ea4e8e64abe37d20f09f80775152f56dde8ab3a5b7dda3⟩

/-- P1P1 = PDBL of Bp3 (95_test_vectors.md section 2.2, R145). -/
def twoB : PointReg :=
  ⟨.P1P1, 0x4f0ebe1faf16eccacdd49d1cc957c6fa41e13f00eea2a5eadbbd15674b6fbb59,
    0x0bd12c8a2785e660e7e2751b603aeb44d768bb0daeb6ef9c215d7594a1a06e5a,
    0x1805ddb3491df0a9558e2ebbaa02855effa18262f5201aa14f4661759bd03579,
    0x67fa224cb6e20f56aa71d14455fd7aa1005e7d9d0adfe55eb0b99e8a642fca76⟩

/-- CACHED = PTOCACHED of Bp3 (section 2.2, R151). -/
def cachedB : PointReg :=
  ⟨.CACHED, 0x07cf9d3a33d4ba65270b4898643d42c2cf932dc6fb8c0e192fbc93c6f58c3b85,
    0x44fd2f9298f81267a5c18434688f8a09fd399f05d140beb39d103905d740913e, 1,
    0x6f117b689f0c65a85a1b7dcbdd43598c26d9e823ccaac49eabc91205877aaa68⟩

/-- PRECOMP = TABLE[0][0] (section 2.3). -/
def precompB : PointReg :=
  ⟨.PRECOMP, 0x07cf9d3a33d4ba65270b4898643d42c2cf932dc6fb8c0e192fbc93c6f58c3b85,
    0x44fd2f9298f81267a5c18434688f8a09fd399f05d140beb39d103905d740913e,
    0x6f117b689f0c65a85a1b7dcbdd43598c26d9e823ccaac49eabc91205877aaa68, 0⟩

/-- The encoding of B (section 1, V4). -/
def encodedB : Buffer := 0x6666666666666666666666666666666666666666666666666666666666666658#256

/-- STATUS after a run. -/
def statusAfter (w : Nat) (s : State) : Word := statusWord (after w s)

/-! ## Commands: one step each, values of 95_test_vectors.md sections 2.1 to 2.4 -/

theorem test_nop :
    statusAfter 0x00000000 State.reset = 0x00000002#32 ∧
      (after 0x00000000 State.reset).f = State.reset.f := by
  decide +kernel

theorem test_fzero : (after 0x00000301 (State.reset.setF 3 7)).getF 3 = 0 := by decide +kernel

theorem test_fone : (after 0x00000002 State.reset).getF 0 = 1 := by decide +kernel

theorem test_fmov : (after 0x00001203 (field 5 0)).getF 2 = 5 := by decide +kernel

theorem test_fconst_d :
    (after 0x00000704 State.reset).getF 7 =
      0x52036cee2b6ffe738cc740797779e89800700a4d4141d8ab75eb4dca135978a3 := by decide +kernel

theorem test_fconst_sqrtm1 :
    (after 0x00200704 State.reset).getF 7 =
      0x2b8324804fc1df0b2b4d00993dfbd7a72f431806ad2fe478c4ee1b274a0ea0b0 := by decide +kernel

theorem test_fadd_wraps : (after 0x00021308 (field (prime - 1) 2)).getF 3 = 1 := by decide +kernel

theorem test_fsub_wraps : (after 0x00021309 (field 5 7)).getF 3 = prime - 2 := by decide +kernel

theorem test_fneg_zero : (after 0x0000440A State.reset).getF 4 = 0 := by decide +kernel

theorem test_fneg_one :
    (after 0x0000440A (State.reset.setF 4 1)).getF 4 = prime - 1 := by decide +kernel

theorem test_fmul_reduces :
    (after 0x0002100B (field (2 ^ 128) (2 ^ 127))).getF 0 = 19 := by decide +kernel

theorem test_fsq_in_place : (after 0x0000110C (field (2 ^ 128) 0)).getF 1 = 38 := by decide +kernel

theorem test_fsq2 : (after 0x0000120D (field (prime - 1) 0)).getF 2 = 2 := by decide +kernel

theorem test_finv_three :
    (after 0x0000500E (State.reset.setF 5 3)).getF 0 =
      0x5555555555555555555555555555555555555555555555555555555555555549 := by decide +kernel

theorem test_finv_zero : (after 0x0000500E State.reset).getF 0 = 0 := by decide +kernel

theorem test_fpow22523_two :
    (after 0x0000110F (field 2 0)).getF 1 =
      0x55c1924027e0ef8595a6804c9efdebd397a18c035697f23c62770d93a507504f := by decide +kernel

theorem test_fsqrtr_root :
    (after 0x00021010 (field 9 4)).getF 0 = (prime + 3) / 2 ∧
      (after 0x00021010 (field 9 4)).cf = true := by
  decide +kernel

theorem test_fsqrtr_none :
    (after 0x00021010 ((field 2 1).setF 0 77)).getF 0 = 77 ∧
      (after 0x00021010 ((field 2 1).setF 0 77)).cf = false := by decide +kernel

theorem test_fisneg :
    statusAfter 0x00003011 (State.reset.setF 3 1) = 0x0000000A#32 := by decide +kernel

theorem test_fisneg_of_minus_one :
    statusAfter 0x00003011 ((State.reset.setF 3 (prime - 1)).setCF true) = 0x00000002#32 := by
  decide +kernel

theorem test_fiszero : statusAfter 0x00004012 State.reset = 0x0000000A#32 := by decide +kernel

theorem test_fcmov_copies :
    (after 0x00002113 ((field 7 9).setCF true)).getF 1 = 9 := by decide +kernel

theorem test_fcmov_keeps : (after 0x00002113 (field 7 9)).getF 1 = 7 := by decide +kernel

theorem test_fld_drops_bit_255 :
    (after 0x00000218 (data 0x8000000000000000000000000000000000000000000000000000000000000005#256)).getF 2 =
      5 := by
  decide +kernel

theorem test_fld_reduces :
    (after 0x00000218 (data 0xffffffffffffffffffffffffffffffffffffffffffffffffffffffffffffffff#256)).getF 2 =
      18 := by
  decide +kernel

theorem test_fst :
    (after 0x00000019 (State.reset.setF 0 (prime - 1))).data =
      0x7fffffffffffffffffffffffffffffffffffffffffffffffffffffffffffffec#256 := by decide +kernel

theorem test_pzero : (after 0x00000720 State.reset).getP 7 = ⟨.P3, 0, 1, 1, 0⟩ := by decide +kernel

theorem test_pmov : (after 0x00000121 (points bp3 twoB)).getP 1 = bp3 := by decide +kernel

theorem test_psetc :
    (after 0x00309122 ((State.reset.setF 9 5).setP 1 ⟨.P2, 1, 2, 3, 0⟩)).getP 1 =
      ⟨.P2, 1, 2, 3, 5⟩ := by decide +kernel

theorem test_pgetc :
    (after 0x00106223 (State.reset.setP 6 ⟨.P3, 0, 1, 1, 0⟩)).getF 2 = 1 := by decide +kernel

theorem test_pform :
    (after 0x00200024 (points { bp3 with form := .NONE } bp3)).getP 0 = bp3 := by decide +kernel

theorem test_pdbl_b : (after 0x00000128 (points bp3 bp3)).getP 1 = twoB := by decide +kernel

theorem test_pdbl_none : statusAfter 0x00000128 State.reset = 0x00000306#32 := by decide +kernel

theorem test_padd_b_b :
    (after 0x00010229 (points bp3 cachedB)).getP 2 =
      ⟨.P1P1, 0x1e1d7c3f5e2dd9959ba93a3992af8df483c27e01dd454bd5b77a2ace96df76c5,
        0x17a259144f0bccc1cfc4ea36c075d689aed1761b5d6ddf3842baeb294340dcb4,
        0x300bbb66923be152ab1c5d7754050abdff4304c5ea4035429e8cc2eb37a06af2,
        0x4ff444996dc41ead54e3a288abfaf54200bcfb3a15bfcabd61733d14c85f94ff⟩ := by decide +kernel

theorem test_pmadd_identity_b :
    (after 0x0005022A ((State.reset.setP 0 ⟨.P3, 0, 1, 1, 0⟩).setP 5 precompB)).getP 2 =
      ⟨.P1P1, 0x42d26da79adca7fd8149c463fbadb8b8d2598ec12a4b4f6592ac5ac11e4baa34,
        0x4cccccccccccccccccccccccccccccccccccccccccccccccccccccccccccccc3, 2, 2⟩ := by
  decide +kernel

theorem test_pmadd_form :
    statusAfter 0x0005022A ((State.reset.setP 0 bp3).setP 5 bp3) = 0x00000306#32 := by
  decide +kernel

theorem test_ptop2 :
    (after 0x0000112C (points bp3 twoB)).getP 1 =
      ⟨.P2, 0x4edbe2246583dab515ddb478484f06f677913e22058e9da4854579b3e7cff596,
        0x4cdb67b39336cc2496487d03c536ae09f5b85599d441cde36db4d326a1d28016,
        0x16793a8694a883a8bf672e05c4bd9d6d142c9effcc6d662e9c8b56c2fd872182, 0⟩ := by decide +kernel

theorem test_ptop3 :
    (after 0x0000112D (points bp3 twoB)).getP 1 =
      ⟨.P3, 0x4edbe2246583dab515ddb478484f06f677913e22058e9da4854579b3e7cff596,
        0x4cdb67b39336cc2496487d03c536ae09f5b85599d441cde36db4d326a1d28016,
        0x16793a8694a883a8bf672e05c4bd9d6d142c9effcc6d662e9c8b56c2fd872182,
        0x67db82368b4a636abf1ba9bfb75781f05c9d2540120f44e6f14cb1f8e4b2b654⟩ := by decide +kernel

theorem test_ptop3_of_p3 :
    statusAfter 0x0000112D (points bp3 bp3) = 0x00000306#32 := by decide +kernel

theorem test_ptocached : (after 0x0000032E (points bp3 bp3)).getP 3 = cachedB := by decide +kernel

theorem test_pcmov_copies :
    (after 0x0000212F ((State.reset.setP 2 bp3).setCF true)).getP 1 = bp3 := by decide +kernel

theorem test_pcmov_keeps :
    (after 0x0000212F (State.reset.setP 2 bp3)).getP 1 = PointReg.none := by decide +kernel

theorem test_penc_b :
    (after 0x00002030 (State.reset.setP 2 bp3)).data = encodedB := by decide +kernel

theorem test_penc_minus_b :
    (after 0x00002030 (State.reset.setP 2 ⟨.P3,
      0x5e96c92c3291ac013f5b1dce022923a396d3389f6ada584d36a9d29f70da2ad3, bp3.c1, 1,
      0x1878a0f02874899a9915b1719b541c82df0f607f88aead0a9221754c5a48224a⟩)).data =
      0xe666666666666666666666666666666666666666666666666666666666666658#256 := by decide +kernel

theorem test_pdec_b :
    (after 0x00000031 (data encodedB)).getP 0 = bp3 ∧
      (after 0x00000031 (data encodedB)).cf = true := by
  decide +kernel

theorem test_pdec_rejects :
    (after 0x00000031 (data 2#256)).getP 0 = PointReg.none ∧
      statusAfter 0x00000031 (data 2#256) = 0x00000002#32 := by decide +kernel

theorem test_psel_top :
    (after 0x0011F038 State.reset).getP 0 =
      ⟨.PRECOMP, 0x19735fd7f6bc20a6e27fc76fcdedaa488c5c397796ada358bf7bbb8a42a975fc,
        0x11b5df18a44cc543efa28c8dfcc84e29ffeed811b2e6fad01abc92af49c5342e,
        0x0fef911191df895f2503a1d065a497b9eb848e0f7f19547ee3ab90d042c84266, 0⟩ := by decide +kernel

theorem test_psel_negative :
    (after 0x003E0038 State.reset).getP 0 =
      ⟨.PRECOMP, 0x44fd2f9298f81267a5c18434688f8a09fd399f05d140beb39d103905d740913e,
        0x07cf9d3a33d4ba65270b4898643d42c2cf932dc6fb8c0e192fbc93c6f58c3b85,
        0x10ee849760f39a57a5e4823422bca673d92617dc33553b615436edfa78855585, 0⟩ := by decide +kernel

theorem test_smulb_one :
    (after 0x00000039 (data 1#256)).getP 0 =
      ⟨.P3, 0x66e87506f31c1c51fa379a8cd269e2d4c94299f02b4e84313779449bfd84dfdd,
        0x70ba1e3de729d343a31e6f0318db4c6b19169c76bbf7663894a79023bff46ec9,
        0x6ce8a5cd60f448148be60ac3df121f85df5c43946af53fc6b9d1742caff18a80,
        0x6bed2a6bf5b016a7fb5faed70ebb1bdd6dcee18cef72035a92c76a16646a4cad⟩ := by decide +kernel

theorem test_smulb_top_bit :
    statusAfter 0x00000039 (data (BitVec.allOnes 256)) = 0x00000406#32 := by decide +kernel

theorem test_setcf : statusAfter 0x0010003E State.reset = 0x0000000A#32 := by decide +kernel

theorem test_illegal_word : statusAfter 0x00000005 State.reset = 0x00000206#32 := by decide +kernel

/-! ## The window and reset: one step each (10_state.md R30 to R39) -/

/-- After reset, with one host access to come. -/
def hostMove (off : Nat) (kind : AccessKind) : State :=
  { State.reset with moves := [.host ⟨off, 4, kind⟩] }

/-- The state one step later. -/
def stepped (s : State) : State := nextOf (step s)

theorem test_read_id : (stepped (hostMove 0x00 .read)).reads = [0x25519001#32] := by decide +kernel

theorem test_write_cmd :
    (stepped (hostMove 0x0C (.write 0x00000005#32))).pending = 0x00000005#32 ∧
      (stepped (hostMove 0x0C (.write 0x00000005#32))).busy = true := by decide +kernel

theorem test_write_data7 :
    (stepped (hostMove 0x3C (.write 0x80000001#32))).data = 0x80000001#256 <<< 224 := by
  decide +kernel

theorem test_write_while_busy :
    statusWord (stepped { hostMove 0x20 (.write 1#32) with busy := true }) = 0x00000105#32 := by
  decide +kernel

theorem test_ctrl_reset :
    (stepped { hostMove 0x04 (.write 3#32) with busy := true, ie := true }).ie = false ∧
      (stepped { hostMove 0x04 (.write 3#32) with busy := true, ie := true }).busy = false := by
  decide +kernel

/-! ## Witnesses: concrete data that meets the hypotheses of each obligation -/

/-- A busy core with the word `w` pending and its turn next. -/
def pendingState (w : Word) : State := { State.reset with busy := true, pending := w }

/-- The same, the host's access to come first. -/
def busyHost (off : Nat) (kind : AccessKind) : State := { hostMove off kind with busy := true }

theorem witness_DecodeInvertsEncode :
    (Instr.psel 7 31 (-8)).wellFormed = true ∧ (Instr.fadd 15 15 15).wellFormed = true :=
  by decide +kernel

theorem witness_EncodeInvertsDecode :
    decode 0x0031F338#32 = .ok (.psel 3 31 (-8)) := by decide +kernel

theorem witness_IllegalWordRaisesIllegal :
    (pendingState 5#32).coreNext [] ∧ (pendingState 5#32).busy = true ∧
      decode (pendingState 5#32).pending = .error .unknownOpcode ∧ decode 0#32 = .ok .nop :=
  by decide +kernel

theorem witness_IllegalFieldsAreRejected :
    ((opField 0x00000820#32).toNat = 0x20 ∧ (dField 0x00000820#32).getLsbD 3 = true) ∧
      ((opField 0x00008030#32).toNat = 0x30 ∧ (aField 0x00008030#32).getLsbD 3 = true) ∧
      ((opField 0x00080029#32).toNat = 0x29 ∧ (bField 0x00080029#32).getLsbD 3 = true) ∧
      ((opField 0x00120038#32).toNat = 0x38 ∧ 8 < (digField 0x00120038#32).toInt) ∧
      ((opField 0x002E0038#32).toNat = 0x38 ∧ (digField 0x002E0038#32).toInt < -8) ∧
      (opField 0x00000005#32).toNat = 5 := by decide +kernel

theorem witness_StepRunsDecodedCommand :
    ∃ t, (pendingState 0x00021308#32).coreNext [] ∧ (pendingState 0x00021308#32).busy = true ∧
      decode (pendingState 0x00021308#32).pending = .ok (.fadd 3 1 2) ∧
      exec (.fadd 3 1 2) { pendingState 0x00021308#32 with moves := [] } = .next t :=
  ⟨_, by decide, by decide, by decide, rfl⟩

theorem witness_FetchWordRunsNext :
    ∃ t, decode (BitVec.ofNat 32 0x00021308) = .ok (.fadd 3 1 2) ∧
      exec (.fadd 3 1 2) { field 1 2 with busy := true, pending := BitVec.ofNat 32 0x00021308 } =
        .next t := ⟨_, by decide, rfl⟩

theorem witness_CompleteClearsBusyAndSetsDone :
    (pendingState 5#32).coreNext [] ∧ (pendingState 5#32).busy = true ∧
      ((busyHost 0x0C (.write 0#32)).busy = true ∧
        (busyHost 0x0C (.write 0#32)).hostNext 0x0C (.write 0#32) []) ∧
      (busyHost 0x3C (.write 0#32)).hostNext 0x3C (.write 0#32) [] := by decide +kernel

theorem witness_ResultsChangeOnlyByCommandOrHost :
    (State.reset.coreNext [] ∧ State.reset.busy = false) ∧
      ∃ t, (hostMove 0x20 (.write 1#32)).moves = [.host ⟨0x20, 4, .write 1#32⟩] ∧
        step (hostMove 0x20 (.write 1#32)) = .next t ∧
        Move.host ⟨0x20, 4, .write 1#32⟩ ≠ .coreTurn ∧
        Move.host ⟨0x20, 4, .write 1#32⟩ ≠ .hardReset ∧
        (∀ v : Word, Move.host ⟨0x20, 4, .write 1#32⟩ ≠ .host ⟨0x04, 4, .write v⟩) ∧
        t.data ≠ (hostMove 0x20 (.write 1#32)).data :=
  ⟨by decide, _, rfl, rfl, by decide, by decide, by simp, by decide +kernel⟩

theorem witness_PendingFixedWhileBusy :
    (∃ t, (busyHost 0x0C (.write 7#32)).busy = true ∧ step (busyHost 0x0C (.write 7#32)) = .next t ∧
        t.busy = true) ∧
      ((busyHost 0x04 (.write 1#32)).busy = true ∧ (1#32).getLsbD 1 = false ∧
        (busyHost 0x04 (.write 1#32)).hostNext 0x04 (.write 1#32) []) ∧
      (busyHost 0x3C (.write 1#32)).hostNext 0x3C (.write 1#32) [] ∧
      ∃ t, (pendingState 0x00021308#32).coreNext [] ∧ (pendingState 0x00021308#32).busy = true ∧
        (Instr.fadd 3 1 2).wellFormed = true ∧
        (pendingState 0x00021308#32).pending = encode (.fadd 3 1 2) ∧
        exec (.fadd 3 1 2) { pendingState 0x00021308#32 with moves := [] } = .next t :=
  ⟨⟨_, rfl, rfl, rfl⟩, by decide, by decide, _, by decide, by decide, by decide, by decide, rfl⟩

theorem witness_OnlyFlagCommandsTouchCF :
    (∃ t, exec (.fzero 3) State.reset = .next t) ∧
      ∃ t u, exec (.fisneg 3) State.reset = .next t ∧
        exec (.fisneg 3) { State.reset with cf := true } = .next u := ⟨⟨_, rfl⟩, _, _, rfl, rfl⟩

theorem witness_OnlyFstAndPencWriteData :
    ∃ t, exec (.fld 3) (data 5#256) = .next t := ⟨_, rfl⟩

theorem witness_CommandWritesOnlyItsDestination :
    ∃ t, exec (.fadd 3 1 2) (field 1 2) = .next t ∧ t.f[(3 : FReg)] ≠ (field 1 2).f[(3 : FReg)] ∧
      ∃ u, exec (.pzero 7) State.reset = .next u ∧ u.p[(7 : PReg)] ≠ State.reset.p[(7 : PReg)] :=
  ⟨_, rfl, by decide +kernel, _, rfl, by decide +kernel⟩

theorem witness_ErrorsArePrecise :
    (busyHost 0x20 (.write 1#32)).busy = true ∧
      (busyHost 0x20 (.write 1#32)).hostNext 0x20 (.write 1#32) [] := by decide

theorem witness_ErrorsDoNotDependOnValues :
    ∃ t v, (∀ r : PReg, (State.reset.p[r]).form = ((field 1 2).p[r]).form) ∧
      State.reset.data.getLsbD 255 = (field 1 2).data.getLsbD 255 ∧
      State.reset.err = (field 1 2).err ∧ State.reset.errcode = (field 1 2).errcode ∧
      exec (.pdbl 1 0) State.reset = .next t ∧ exec (.pdbl 1 0) (field 1 2) = .next v :=
  ⟨_, _, by decide, by decide, by decide, by decide, rfl, rfl⟩

theorem witness_StepKeepsInvariant :
    ∃ t, (pendingState 5#32).Inv ∧ step (pendingState 5#32) = .next t := ⟨_, by decide +kernel, rfl⟩

theorem witness_SafeRunsNeverStop :
    State.safe { State.reset with
      moves := [.host ⟨0x0C, 4, .write 0x39#32⟩, .coreTurn, .host ⟨0x3C, 4, .read⟩, .hardReset] } :=
  by
  simp [State.safe, Move.legal, Access.aligned32]

theorem witness_WindowReadValues :
    (hostMove 0x00 .read).hostNext 0x00 .read [] ∧
      (hostMove 0x1C (.write 1#32)).hostNext 0x1C (.write 1#32) [] ∧
      (hostMove 0x10 .read).hostNext 0x10 .read [] ∧ (hostMove 0x04 .read).hostNext 0x04 .read [] ∧
      (hostMove 0x08 .read).hostNext 0x08 .read [] ∧
      (hostMove 0x08 (.write 6#32)).hostNext 0x08 (.write 6#32) [] := by decide

theorem witness_CmdWriteAcceptsOrRecordsBusy :
    ((hostMove 0x0C (.write 5#32)).hostNext 0x0C (.write 5#32) [] ∧
        (hostMove 0x0C (.write 5#32)).busy = false) ∧
      ((busyHost 0x0C (.write 5#32)).hostNext 0x0C (.write 5#32) [] ∧
        (busyHost 0x0C (.write 5#32)).busy = true) ∧
      (hostMove 0x0C .read).hostNext 0x0C .read [] := by decide

theorem witness_DataWordsReadAndWrite :
    ((hostMove 0x3C .read).hostNext (0x20 + 4 * (7 : Fin 8).val) .read [] ∧
        (hostMove 0x3C .read).busy = false) ∧
      ((hostMove 0x20 (.write 5#32)).hostNext (0x20 + 4 * (0 : Fin 8).val) (.write 5#32) [] ∧
        (hostMove 0x20 (.write 5#32)).busy = false) ∧
      ((busyHost 0x3C (.write 5#32)).hostNext (0x20 + 4 * (7 : Fin 8).val) (.write 5#32) [] ∧
        (busyHost 0x3C (.write 5#32)).busy = true) ∧
      (busyHost 0x20 .read).hostNext (0x20 + 4 * (0 : Fin 8).val) .read [] ∧
      (busyHost 0x20 .read).busy = true := by decide

theorem witness_ReadsLeaveTheBlockUnchanged :
    (busyHost 0x3C .read).hostNext 0x3C .read [] ∧ 0x3C < 0x40 ∧ 0x3C % 4 = 0 := by decide

theorem witness_CtrlWriteSetsEnableOrResets :
    ((hostMove 0x04 (.write 1#32)).hostNext 0x04 (.write 1#32) [] ∧
        (1#32).getLsbD 1 = false) ∧
      ((busyHost 0x04 (.write 3#32)).hostNext 0x04 (.write 3#32) [] ∧ (3#32).getLsbD 1 = true) ∧
      (hostMove 0x04 .read).hostNext 0x04 .read [] := by decide

theorem witness_SoftResetAbandonsTheCommand :
    (busyHost 0x04 (.write 3#32)).hostNext 0x04 (.write 3#32) [] ∧ (3#32).getLsbD 1 = true :=
  by decide

theorem witness_ResetGivesResetValues :
    State.moves { pendingState 5#32 with moves := [.hardReset] } = [.hardReset] := rfl

theorem witness_OtherAccessesAreRefused :
    (0x04 < 0x40 ∧ (⟨0x04, 1, .read⟩ : Access).bytes ≠ 4) ∧ (0x3F < 0x40 ∧ 0x3F % 4 ≠ 0) ∧
      Access.atAddress (Config.coreBase + 0x40) 4 .read = some ⟨0x40, 4, .read⟩ ∧
      (⟨0x3C, 4, .read⟩ : Access).aligned32 ∧
      State.moves { State.reset with moves := [.otherMaster ⟨0, 4, .read⟩] } =
        [.otherMaster ⟨0, 4, .read⟩] :=
  ⟨by decide, by decide, Access.atAddress_base _ _ _, by decide, rfl⟩

theorem witness_InterruptReachesTheHostUnlessMasked :
    (hostMove 0x08 .read).ie = false ∧ (hostMove 0x08 .read).hostNext 0x08 .read [] := by decide

theorem witness_IrqRisesAndFallsOnlyAsStated :
    (∃ t, step { pendingState 5#32 with ie := true } = .next t ∧
        State.irq { pendingState 5#32 with ie := true } = false ∧ t.irq = true) ∧
      (∃ t, step { hostMove 0x04 (.write 1#32) with done := true } = .next t ∧
        State.irq { hostMove 0x04 (.write 1#32) with done := true } = false ∧ t.irq = true) ∧
      (∃ t, step { hostMove 0x08 (.write 6#32) with done := true, ie := true } = .next t ∧
        State.irq { hostMove 0x08 (.write 6#32) with done := true, ie := true } = true ∧
        t.irq = false) ∧
      ∃ t, step { hostMove 0x04 (.write 0#32) with done := true, ie := true } = .next t ∧
        State.irq { hostMove 0x04 (.write 0#32) with done := true, ie := true } = true ∧
        t.irq = false :=
  ⟨⟨_, rfl, rfl, rfl⟩, ⟨_, rfl, rfl, rfl⟩, ⟨_, rfl, rfl, rfl⟩, _, rfl, rfl, rfl⟩

theorem witness_ErrIsStickyAndStopsNothing :
    (∃ t, step { hostMove 0x08 (.write 4#32) with err := true } = .next t ∧ t.err = false) ∧
      ∃ t, step { hostMove 0x04 (.write 2#32) with err := true } = .next t ∧ t.err = false :=
  ⟨⟨_, rfl, rfl⟩, _, rfl, rfl⟩

theorem witness_ControlCommandsComplete :
    (pendingState 0#32).coreNext [] ∧ (pendingState 0#32).busy = true ∧
      (pendingState 0#32).pending = 0x00000000#32 := by decide

theorem witness_FieldMovesCopy :
    ((field 7 9).setCF true).cf = true ∧ (field 7 9).cf = false := by decide

theorem witness_PowerCommandsCompute :
    (field 0 0).f[(1 : FReg)] = 0 ∧ (field 1 0).f[(1 : FReg)] = 1 ∧
      (field (prime - 1) 0).f[(1 : FReg)] = prime - 1 := by decide +kernel

theorem witness_FinvInverts :
    ((field 3 0).f[(1 : FReg)] < prime ∧ (field 3 0).f[(1 : FReg)] ≠ 0) ∧
      (field 0 0).f[(1 : FReg)] = 0 ∧ (field 1 0).f[(1 : FReg)] = 1 := by decide +kernel

theorem witness_FsqrtrComputesByFormula :
    ∃ u v x : Nat, u = (field 9 4).f[(1 : FReg)] ∧ v = (field 9 4).f[(2 : FReg)] ∧
      x = u * v ^ 3 * (u * v ^ 7) ^ ((prime - 5) / 8) % prime := ⟨_, _, _, rfl, rfl, rfl⟩

theorem witness_FsqrtrRootIsARoot :
    ((field 9 4).f[(1 : FReg)] < prime ∧
        (nextOf (exec (.fsqrtr 0 1 2) (field 9 4))).cf = true) ∧
      (nextOf (exec (.fsqrtr 0 1 2) (field 2 1))).cf = false ∧
      (field 0 5).f[(1 : FReg)] = 0 ∧
      ((field 1 0).f[(2 : FReg)] = 0 ∧ (field 1 0).f[(1 : FReg)] ≠ 0) := by decide +kernel

theorem witness_FsqrtrFindsEveryRoot :
    (field 36 4).f[(1 : FReg)] < prime ∧ (field 36 4).f[(2 : FReg)] < prime ∧
      (field 36 4).f[(2 : FReg)] ≠ 0 ∧
      (field 36 4).f[(1 : FReg)] = (field 36 4).f[(2 : FReg)] * 3 ^ 2 % prime := by decide +kernel

theorem witness_ByteCommandsConvert :
    (field (prime - 1) 0).f[(1 : FReg)] < prime := by decide +kernel

theorem witness_PointDataMovementCompletes :
    (State.reset.setCF true).cf = true ∧ State.reset.cf = false := by decide

theorem witness_PdblComputesDoubling :
    ((points bp3 bp3).p[(0 : PReg)]).form = .P3 ∧
      ((points ⟨.P2, 1, 2, 3, 4⟩ bp3).p[(0 : PReg)]).form = .P2 ∧
      ((points twoB bp3).p[(0 : PReg)]).form = .P1P1 := by decide +kernel

theorem witness_AdditionCommandsCompute :
    (((points bp3 precompB).p[(0 : PReg)]).form = .P3 ∧
        ((points bp3 precompB).p[(1 : PReg)]).form = .PRECOMP) ∧
      (((points bp3 cachedB).p[(0 : PReg)]).form = .P3 ∧
        ((points bp3 cachedB).p[(1 : PReg)]).form = .CACHED) ∧
      (State.reset.p[(0 : PReg)]).form ≠ .P3 := by decide +kernel

theorem witness_PencEncodes :
    ∃ r x y : Nat, r = ((points bp3 bp3).p[(0 : PReg)]).c2 ^ (prime - 2) % prime ∧
      x = ((points bp3 bp3).p[(0 : PReg)]).c0 * r % prime ∧
      y = ((points bp3 bp3).p[(0 : PReg)]).c1 * r % prime ∧
      ((points bp3 bp3).p[(0 : PReg)]).form = .P3 ∧
      ((points ⟨.P3, 5, 7, 0, 0⟩ bp3).p[(0 : PReg)]).c2 = 0 ∧
      (State.reset.p[(0 : PReg)]).form = .NONE :=
  ⟨_, _, _, rfl, rfl, rfl, by decide, by decide, by decide⟩

theorem witness_PdecDecodes :
    ((0 : Nat) = (data 0#256).data.toNat % 2 ^ 255 % prime ∧
        ((prime - 1 : Nat) : Int) = (((0 : Nat) : Int) ^ 2 - 1) % prime ∧
        1 = (37095705934669439343138083508754565189542113879843219016388785533085940283555 *
          0 ^ 2 + 1) % prime ∧
        (nextOf (exec (.fsqrtr 2 0 1) ((State.reset.setF 0 (prime - 1)).setF 1 1))).cf = true) ∧
      ((2 : Nat) = (data 2#256).data.toNat % 2 ^ 255 % prime ∧
        ((3 : Nat) : Int) = (((2 : Nat) : Int) ^ 2 - 1) % prime ∧
        (nextOf (exec (.fsqrtr 2 0 1) ((State.reset.setF 0 3).setF 1
          ((37095705934669439343138083508754565189542113879843219016388785533085940283555 *
            2 ^ 2 + 1) % prime)))).cf = false) := by decide +kernel

theorem witness_WrongFormsRaiseForm :
    ((points twoB bp3).p[(0 : PReg)]).form ∉ [Form.P2, .P3] ∧
      ((points bp3 bp3).p[(1 : PReg)]).form ≠ .PRECOMP ∧
      ((points bp3 bp3).p[(1 : PReg)]).form ≠ .CACHED ∧
      ((points cachedB bp3).p[(0 : PReg)]).form ∉ [Form.P1P1, .P3] ∧
      ((points bp3 bp3).p[(0 : PReg)]).form ≠ .P1P1 ∧ ((points twoB bp3).p[(0 : PReg)]).form ≠ .P3 :=
  by decide

theorem witness_PselSelects :
    (-8 : Int) ≤ -8 ∧ (-8 : Int) < 0 ∧ (0 : Int) < 8 ∧ (8 : Int) ≤ 8 ∧ (-9 : Int) < -8 ∧ (8 : Int) < 9 :=
  by decide

theorem witness_SmulbMultipliesOrRefusesTopBit :
    (data 1#256).data.getLsbD 255 = false ∧ (data (BitVec.allOnes 256)).data.getLsbD 255 = true :=
  by decide

/-- A valid value of each form (41_group.md R142). -/
theorem bp3_valid : bp3.valid :=
  ⟨by decide +kernel, by decide +kernel, by decide +kernel, by decide +kernel⟩

theorem p2_valid : (PointReg.mk .P2 baseX baseY 1 0).valid :=
  ⟨by decide +kernel, by decide +kernel, by decide +kernel⟩

theorem twoB_valid : twoB.valid :=
  ⟨by decide +kernel, by decide +kernel, by decide +kernel, by decide +kernel⟩

theorem precompB_valid : precompB.valid :=
  ⟨by decide +kernel, by decide +kernel, by decide +kernel⟩

theorem cachedB_valid : cachedB.valid :=
  ⟨by decide +kernel, by decide +kernel, by decide +kernel, by decide +kernel⟩

theorem witness_SmulbRunsItsSequence :
    (data 1#256).data.getLsbD 255 = false := by decide

theorem witness_FieldLawsHold :
    2 < prime ∧ 3 < prime ∧ prime - 1 < prime ∧ 2 ≠ 0 := by decide +kernel

theorem witness_CurveAdditionIsComplete :
    Affine.base.onCurve ∧ Affine.zero.onCurve := by decide +kernel

theorem witness_ConversionCommandsCompute :
    bp3.valid ∧ bp3.form = .P3 ∧ twoB.valid ∧ twoB.form = .P1P1 ∧
      (State.reset.p[(0 : PReg)]).form = .NONE :=
  ⟨bp3_valid, by decide, twoB_valid, by decide, by decide⟩

theorem witness_PointCommandsFollowGroupLaw :
    bp3.valid ∧ bp3.form = .P3 ∧ (PointReg.mk .P2 baseX baseY 1 0).valid ∧ precompB.valid ∧
      precompB.form = .PRECOMP ∧ cachedB.valid ∧ cachedB.form = .CACHED :=
  ⟨bp3_valid, by decide, p2_valid, precompB_valid, by decide, cachedB_valid, by decide⟩

theorem witness_DecodedPointIsOnCurve :
    (nextOf (exec (.pdec 0 .plain) (data encodedB))).cf = true ∧
      (nextOf (exec (.pdec 0 .plain) (data encodedB))).p[(0 : PReg)].c0 ≠ 0 ∧
      (nextOf (exec (.pdec 0 .plain) (data 2#256))).cf = false := by decide +kernel

theorem witness_EncodeDecodeRoundTrip :
    bp3.valid ∧ bp3.form = .P3 ∧ (PointReg.mk .P2 baseX baseY 1 0).valid ∧
      (nextOf (exec (.pdec 0 .negated) (data encodedB))).cf = true ∧
      (nextOf (exec (.pdec 0 .plain) (data 2#256))).cf = false :=
  ⟨bp3_valid, by decide, p2_valid, by decide +kernel, by decide +kernel⟩

theorem witness_RecodingRepresentsTheScalar :
    2 ^ 255 - 1 < 2 ^ 255 ∧ 62 < 63 ∧ 0 < 2 ^ 255 := by decide

theorem witness_TableHoldsBaseMultiples :
    (∃ q : Affine, 0 < 32 ∧ 0 < 8 ∧ q = Affine.base.times ((0 + 1) * 256 ^ 0)) ∧
      ∃ q : Affine, 31 < 32 ∧ 7 < 8 ∧ q = Affine.base.times ((7 + 1) * 256 ^ 31) :=
  ⟨⟨_, by decide, by decide, rfl⟩, _, by decide, by decide, rfl⟩

theorem witness_EngineMultipliesTheBasePoint :
    (data (BitVec.allOnes 255 |>.setWidth 256)).data.getLsbD 255 = false := by decide +kernel

end Sys2Proof.Tests
end

section
/-! PROOFS. The family 00_scope: what every command leaves unchanged, read off the inversion lemma
`exec_cases` (10_state.md R20, R27, 40_field.md R100, 41_group.md R140). -/

namespace Sys2Proof.Machine

variable {i : Instr} {s t : State}

/-- No effect of a command touches the handshake registers or the model's own fields. -/
theorem Effect.handshake_frame (h : Effect i s t) :
    t.busy = s.busy ∧ t.pending = s.pending ∧ t.ie = s.ie ∧ t.done = s.done ∧
      t.moves = s.moves ∧ t.reads = s.reads ∧ t.draws = s.draws := by
  cases h <;> simp

/-- A field register that an effect changes is the command's field destination. -/
theorem Effect.fieldDest_of_f_ne {r : FReg} (h : Effect i s t) (hr : t.f[r] ≠ s.f[r]) :
    fieldDest i = some r := by
  cases h with
  | nothing | point | pointFlag | flag | data | error => exact absurd rfl hr
  | field v hd | fieldFlag v hd =>
    rw [hd]
    by_contra hne
    exact hr (State.setF_getElem_ne v fun e => hne (congrArg some e.symm))

/-- A point register that an effect changes is the command's point destination. -/
theorem Effect.pointDest_of_p_ne {r : PReg} (h : Effect i s t) (hr : t.p[r] ≠ s.p[r]) :
    pointDest i = some r := by
  cases h with
  | nothing | field | fieldFlag | flag | data | error => exact absurd rfl hr
  | point v hd | pointFlag v hd =>
    rw [hd]
    by_contra hne
    exact hr (State.setP_getElem_ne v fun e => hne (congrArg some e.symm))

/-- The commands with the field destination r: the rows of 30_encoding.md R87 with F in column D. -/
theorem fieldDest_eq_some_iff {r : FReg} :
    fieldDest i = some r ↔
      i = .fzero r ∨ i = .fone r ∨ (∃ a, i = .fmov r a) ∨ (∃ k, i = .fconst r k) ∨
      (∃ a b, i = .fadd r a b) ∨ (∃ a b, i = .fsub r a b) ∨ (∃ a, i = .fneg r a) ∨
      (∃ a b, i = .fmul r a b) ∨ (∃ a, i = .fsq r a) ∨ (∃ a, i = .fsq2 r a) ∨
      (∃ a, i = .finv r a) ∨ (∃ a, i = .fpow22523 r a) ∨ (∃ a b, i = .fsqrtr r a b) ∨
      (∃ a, i = .fcmov r a) ∨ i = .fld r ∨ ∃ a c, i = .pgetc r a c := by
  cases i <;> simp [fieldDest]

/-- The commands with the point destination r: the rows of 30_encoding.md R87 with P in column D. -/
theorem pointDest_eq_some_iff {r : PReg} :
    pointDest i = some r ↔
      i = .pzero r ∨ (∃ a, i = .pmov r a) ∨ (∃ a c, i = .psetc r a c) ∨ (∃ g, i = .pform r g) ∨
      (∃ a, i = .pdbl r a) ∨ (∃ a b, i = .padd r a b) ∨ (∃ a b, i = .pmadd r a b) ∨
      (∃ a, i = .ptop2 r a) ∨ (∃ a, i = .ptop3 r a) ∨ (∃ a, i = .ptocached r a) ∨
      (∃ a, i = .pcmov r a) ∨ (∃ m, i = .pdec r m) ∨ (∃ pos dig, i = .psel r pos dig) ∨
      i = .smulb r := by
  cases i <;> simp [pointDest]

/-- Settles O11: every command answers one of the effects, and no effect touches the handshake. -/
theorem everyCommandCompletesInItsFrame : Obligations.EveryCommandCompletesInItsFrame := by
  intro i s
  obtain ⟨t, ht, he⟩ := exec_effect i s
  exact ⟨t, ht, he.handshake_frame⟩

/-- Settles O14: the only register an effect changes is the destination the command names. -/
theorem commandWritesOnlyItsDestination : Obligations.CommandWritesOnlyItsDestination := by
  intro i s t h
  have he : Effect i s t := exec_cases h
  exact ⟨fun _ hr => fieldDest_eq_some_iff.mp (he.fieldDest_of_f_ne hr),
    fun _ hr => pointDest_eq_some_iff.mp (he.pointDest_of_p_ne hr)⟩

end Sys2Proof.Machine
end

section
/-! PROOFS. The family 10_state, its invariant: every register below p, and ERRCODE coherent with
ERR (10_state.md R21, R23, R39, 60_exceptions.md R210). A command's values are canonical by the lemmas of
Laws/Points, its errors are read off `exec_cases`, and a step is taken apart by `step_cases`. -/

namespace Sys2Proof.Machine

variable {i : Instr} {s t : State}

/-- A recorded error is one of the codes 1 to 4, with ERR = 1 (60_exceptions.md R210). -/
theorem State.recordError_errorCoherent (s : State) (c : ErrorCode) :
    (s.recordError c).errorCoherent := by
  cases c <;> simp [State.errorCoherent, ErrorCode.toByte]

/-- Recording an error keeps the invariant: no register is touched. -/
theorem State.recordError_inv (hs : s.Inv) (c : ErrorCode) : (s.recordError c).Inv :=
  ⟨hs.1, s.recordError_errorCoherent c⟩

/-- An effect of a command writes ERR and ERRCODE by recording an error only. -/
theorem Effect.errorCoherent (h : Effect i s t) (hs : s.errorCoherent) : t.errorCoherent := by
  cases h with
  | nothing | field | fieldFlag | point | pointFlag | flag | data => exact hs
  | error c => exact s.recordError_errorCoherent c

/-- The constants FCONST loads are canonical (40_field.md R104). -/
theorem curveConst_lt (k : CurveConst) : curveConst k < prime := by
  cases k
  exacts [constD_lt, constD2_lt, constSqrtM1_lt]

theorem State.getF_lt (hs : s.canonical) (r : FReg) : s.getF r < prime := hs.1 r

theorem State.getP_canonical (hs : s.canonical) (r : PReg) : (s.getP r).canonical := hs.2 r

/-- A form check keeps the registers canonical when its command's effect does. -/
theorem withForm_canonical {accepted : Bool} (hs : s.canonical) (ht : t.canonical) :
    ∃ u, withForm accepted s t = .next u ∧ u.canonical := by
  cases accepted
  · exact ⟨_, rfl, hs⟩
  · exact ⟨_, rfl, ht⟩

/-- Every command keeps the registers canonical: each value it writes is a copy of a canonical one,
a constant, or a residue. -/
theorem exec_canonical (i : Instr) (hs : s.canonical) :
    ∃ t, exec i s = .next t ∧ t.canonical := by
  cases i with
  | nop | fisneg | fiszero | fst | setcf => exact ⟨_, rfl, hs⟩
  | fzero => exact ⟨_, rfl, State.setF_canonical hs _ prime_pos⟩
  | fone => exact ⟨_, rfl, State.setF_canonical hs _ one_lt_prime⟩
  | fmov fd fa => exact ⟨_, rfl, State.setF_canonical hs _ (State.getF_lt hs fa)⟩
  | fconst fd k => exact ⟨_, rfl, State.setF_canonical hs _ (curveConst_lt k)⟩
  | fadd => exact ⟨_, rfl, State.setF_canonical hs _ (fadd_lt _ _)⟩
  | fsub => exact ⟨_, rfl, State.setF_canonical hs _ (fsub_lt _ _)⟩
  | fneg => exact ⟨_, rfl, State.setF_canonical hs _ (fneg_lt _)⟩
  | fmul | fsq2 => exact ⟨_, rfl, State.setF_canonical hs _ (fmul_lt _ _)⟩
  | fsq => exact ⟨_, rfl, State.setF_canonical hs _ (fsq_lt _)⟩
  | finv => exact ⟨_, rfl, State.setF_canonical hs _ (finv_lt _)⟩
  | fpow22523 => exact ⟨_, rfl, State.setF_canonical hs _ (fpow22523_lt _)⟩
  | fsqrtr =>
    refine ⟨_, rfl, ?_⟩
    split
    next x hx => exact State.setF_canonical hs _ (sqrtRatio_lt hx)
    next => exact hs
  | fcmov fd fa =>
    refine ⟨_, rfl, ?_⟩
    split
    · exact State.setF_canonical hs _ (State.getF_lt hs fa)
    · exact hs
  | fld => exact ⟨_, rfl, State.setF_canonical hs _ (fromBytes_lt _)⟩
  | pgetc fd pa c =>
    exact ⟨_, rfl, State.setF_canonical hs _ (PointReg.get_lt (State.getP_canonical hs pa) c)⟩
  | pzero => exact ⟨_, rfl, State.setP_canonical hs _ identityP3_canonical⟩
  | pmov pd pa => exact ⟨_, rfl, State.setP_canonical hs _ (State.getP_canonical hs pa)⟩
  | psetc pd fa c =>
    exact ⟨_, rfl, State.setP_canonical hs _
      (PointReg.put_canonical (State.getP_canonical hs pd) c (State.getF_lt hs fa))⟩
  | pform pd form => exact ⟨_, rfl, State.setP_canonical hs _ (State.getP_canonical hs pd)⟩
  | pcmov pd pa =>
    refine ⟨_, rfl, ?_⟩
    split
    · exact State.setP_canonical hs _ (State.getP_canonical hs pa)
    · exact hs
  | pdbl => exact withForm_canonical hs (State.setP_canonical hs _ (dbl_canonical _))
  | padd => exact withForm_canonical hs (State.setP_canonical hs _ (pAdd_canonical _ _))
  | pmadd => exact withForm_canonical hs (State.setP_canonical hs _ (mAdd_canonical _ _))
  | ptop2 pd pa =>
    exact withForm_canonical hs
      (State.setP_canonical hs _ (toP2_canonical (State.getP_canonical hs pa)))
  | ptop3 => exact withForm_canonical hs (State.setP_canonical hs _ (toP3_canonical _))
  | ptocached pd pa =>
    exact withForm_canonical hs
      (State.setP_canonical hs _ (toCached_canonical (State.getP_canonical hs pa)))
  | penc => exact withForm_canonical hs hs
  | pdec =>
    refine ⟨_, rfl, ?_⟩
    split
    next q hq => exact State.setP_canonical hs _ (decodePoint_canonical hq)
    next => exact hs
  | psel =>
    simp only [exec, execPsel]
    split
    · exact ⟨_, rfl, State.setP_canonical hs _ (select_canonical _ _)⟩
    · exact ⟨_, rfl, hs⟩
  | smulb =>
    simp only [exec, execSmulb]
    split
    · exact ⟨_, rfl, hs⟩
    · exact ⟨_, rfl, State.setP_canonical hs _ (fixedBase_canonical _)⟩

/-- Every command keeps the invariant. -/
theorem exec_inv (hs : s.Inv) (h : exec i s = .next t) : t.Inv := by
  obtain ⟨hcan, herr⟩ := hs
  obtain ⟨u, hu, hucan⟩ := exec_canonical i hcan
  cases hu.symm.trans h
  exact ⟨hucan, (exec_cases h).errorCoherent herr⟩

/-- The end of a Complete step writes BUSY and DONE only (20_memory.md R66). -/
theorem State.finish_inv (hs : s.Inv) : s.finish.Inv := hs

/-- Settles O18: the registers are 0 and ERR is clear. -/
theorem resetMeetsInvariant : Obligations.ResetMeetsInvariant := by
  unfold Obligations.ResetMeetsInvariant
  decide

/-- A reset establishes the invariant, whatever the state was. -/
theorem State.zeroise_inv (s : State) : s.zeroise.Inv := resetMeetsInvariant

/-- A host read keeps the invariant: it writes the host's record only. -/
theorem readReg_inv (hs : s.Inv) (r : WindowReg) : (readReg r s).Inv := by
  cases r with
  | id | ctrl | status | cmd | reserved => exact hs
  | data k =>
    simp only [readReg]
    split <;> exact hs

/-- Clearing ERR clears ERRCODE with it (10_state.md R33). -/
theorem State.clearError_inv (hs : s.Inv) : s.clearError.Inv :=
  ⟨hs.1, by simp [State.errorCoherent]⟩

/-- A host write keeps the invariant: it writes no register but by a reset, and ERRCODE with ERR. -/
theorem writeReg_inv (hs : s.Inv) (r : WindowReg) (v : Word) : (writeReg r v s).Inv := by
  cases r with
  | id | reserved => exact hs
  | ctrl =>
    simp only [writeReg, writeCtrl]
    split
    · exact s.zeroise_inv
    · exact hs
  | status =>
    have hdone : (if v.getLsbD 1 then s.clearDone else s).Inv := by
      split <;> exact hs
    simp only [writeReg, writeStatus]
    split
    · exact State.clearError_inv hdone
    · exact hdone
  | cmd =>
    simp only [writeReg, writeCmd]
    split
    · exact State.recordError_inv hs .busy
    · exact hs
  | data k =>
    simp only [writeReg, writeData]
    split
    · exact State.recordError_inv hs .busy
    · exact hs

/-- A host access keeps the invariant. -/
theorem accessReg_inv (hs : s.Inv) (r : WindowReg) (kind : AccessKind) :
    (accessReg r kind s).Inv := by
  cases kind with
  | read => exact readReg_inv hs r
  | write v => exact writeReg_inv hs r v

/-- Settles O17, by the inversion of a step into an idle turn, a Complete step, a host access or a
reset. -/
theorem stepKeepsInvariant : Obligations.StepKeepsInvariant := by
  intro s t hs ht
  have hmoves (rest : List Move) : State.Inv { s with moves := rest } := hs
  cases step_cases ht with
  | idle => exact hmoves _
  | command _ _ _ hu => exact State.finish_inv (exec_inv (hmoves _) hu)
  | illegal => exact State.finish_inv (State.recordError_inv (hmoves _) .illegal)
  | access => exact accessReg_inv (hmoves _) _ _
  | reset => exact State.zeroise_inv _

end Sys2Proof.Machine
end

section
/-! PROOFS. The family 10_state, CF and DATA: who writes them and who reads CF (10_state.md R24, R25,
70_reset_and_hazards.md R248). -/

namespace Sys2Proof.Machine

variable {i : Instr} {s t : State}

/-- A command that is no writer of CF has no effect on it. -/
theorem Effect.cf_eq (h : Effect i s t) (hi : writesCF i = false) : t.cf = s.cf := by
  cases h with
  | nothing | field | point | data | error => rfl
  | fieldFlag _ _ hc | pointFlag _ _ hc | flag _ hc => simp [hi] at hc

/-- A command that is no writer of DATA has no effect on it. -/
theorem Effect.data_eq (h : Effect i s t) (hi : writesData i = false) : t.data = s.data := by
  cases h with
  | nothing | field | fieldFlag | point | pointFlag | flag | error => rfl
  | data _ hd => simp [hi] at hd

/-- The writers of CF (10_state.md R24). -/
theorem writesCF_iff :
    writesCF i = true ↔ (∃ a, i = .fisneg a) ∨ (∃ a, i = .fiszero a) ∨
      (∃ d a b, i = .fsqrtr d a b) ∨ (∃ d m, i = .pdec d m) ∨ ∃ v, i = .setcf v := by
  cases i <;> simp [writesCF]

/-- The writers of DATA (10_state.md R25). -/
theorem writesData_iff : writesData i = true ↔ (∃ a, i = .fst a) ∨ ∃ a, i = .penc a := by
  cases i <;> simp [writesData]

@[simp] theorem State.setCF_getF (s : State) (b : Bool) (r : FReg) :
    (s.setCF b).getF r = s.getF r := rfl

@[simp] theorem scalarTopBit_setCF (s : State) (b : Bool) :
    scalarTopBit (s.setCF b) = scalarTopBit s := rfl

@[simp] theorem scalarOf_setCF (s : State) (b : Bool) : scalarOf (s.setCF b) = scalarOf s := rfl

/-- A form check does not look at CF. -/
theorem withForm_setCF (accepted : Bool) (s t : State) (b : Bool) :
    ∃ u, withForm accepted s t = .next u ∧
      withForm accepted (s.setCF b) (t.setCF b) = .next (u.setCF b) := by
  cases accepted <;> exact ⟨_, rfl, rfl⟩

/-- A command that does not read CF does the same with CF set to b, but that CF stays b where the
command does not write it. -/
theorem exec_setCF (s : State) (b : Bool) (hf : ∀ d a, i ≠ .fcmov d a)
    (hp : ∀ d a, i ≠ .pcmov d a) :
    ∃ t, exec i s = .next t ∧
      exec i (s.setCF b) = .next (t.setCF (if writesCF i then t.cf else b)) := by
  cases i with
  | fcmov fd fa => exact absurd rfl (hf fd fa)
  | pcmov pd pa => exact absurd rfl (hp pd pa)
  | nop | fzero | fone | fmov | fconst | fadd | fsub | fneg | fmul | fsq | fsq2 | finv | fpow22523
  | fisneg | fiszero | fld | fst | pzero | pmov | psetc | pgetc | pform | setcf =>
    exact ⟨_, rfl, rfl⟩
  | fsqrtr fd fa fb =>
    simp only [exec, execFsqrtr, State.setCF_getF]
    cases sqrtRatio (s.getF fa) (s.getF fb) <;> exact ⟨_, rfl, rfl⟩
  | pdbl | padd | pmadd | ptop2 | ptop3 | ptocached | penc => exact withForm_setCF _ _ _ b
  | pdec pd mode =>
    simp only [exec, execPdec, State.setCF_data]
    cases decodePoint mode s.data <;> exact ⟨_, rfl, rfl⟩
  | psel pd pos dig =>
    simp only [exec, execPsel]
    split <;> exact ⟨_, rfl, rfl⟩
  | smulb pd =>
    simp only [exec, execSmulb, scalarTopBit_setCF, scalarOf_setCF]
    by_cases htop : scalarTopBit s = true
    · exact ⟨_, if_pos htop, if_pos htop⟩
    · exact ⟨_, if_neg htop, if_neg htop⟩

/-- Settles O12: the frame of CF from the effects, and the answers with CF changed from
`exec_setCF`. -/
theorem onlyFlagCommandsTouchCF : Obligations.OnlyFlagCommandsTouchCF := by
  refine ⟨?_, ?_, statusWord_cf⟩
  · intro i s t h hneg hzero hroot hdec hset
    refine (exec_cases h).cf_eq (Bool.eq_false_iff.mpr fun hw => ?_)
    obtain ⟨a, e⟩ | ⟨a, e⟩ | ⟨d, a, b, e⟩ | ⟨d, m, e⟩ | ⟨v, e⟩ := writesCF_iff.mp hw
    exacts [hneg a e, hzero a e, hroot d a b e, hdec d m e, hset v e]
  · intro i s t u b hf hp ht hu
    obtain ⟨t', ht', hu'⟩ := exec_setCF s b hf hp
    cases ht'.symm.trans ht
    cases hu'.symm.trans hu
    exact ⟨rfl, rfl, rfl, rfl, rfl, fun hw => by simp [writesCF_iff.mpr hw]⟩

/-- Settles O13: DATA is in the frame of every effect but the one of FST and PENC. -/
theorem onlyFstAndPencWriteData : Obligations.OnlyFstAndPencWriteData := by
  intro i s t h hfst hpenc
  refine (exec_cases h).data_eq (Bool.eq_false_iff.mpr fun hw => ?_)
  obtain ⟨a, e⟩ | ⟨a, e⟩ := writesData_iff.mp hw
  exacts [hfst a e, hpenc a e]

end Sys2Proof.Machine
end

section
/-! PROOFS. The family 10_state, one step at a time: the Complete step of a placed command, the reset
input, and the host's accesses of each register of the window (10_state.md R29 to R39). -/

namespace Sys2Proof.Machine

variable {s t : State} {rest : List Move} {off : Nat} {kind : AccessKind}

/-! ## What a step does, by the move it takes -/

/-- The core's turn on a pending word that decodes runs the command and ends it (20_memory.md R66). -/
theorem step_command {i : Instr} (h : s.coreNext rest) (hb : s.busy = true)
    (hd : decode s.pending = .ok i) (ht : exec i { s with moves := rest } = .next t) :
    step s = .next t.finish := by
  rw [step_coreNext h, coreTurn_busy (s := { s with moves := rest }) hb,
    complete_ok (s := { s with moves := rest }) hd, ht, finishResult_next]

/-- A hard reset gives the reset values and leaves the schedule after it. -/
theorem step_hardReset (h : s.moves = .hardReset :: rest) :
    step s = .next (State.zeroise { s with moves := rest }) := by
  rw [step, nextMove_cons h, doMove]

/-- A host access of the register at its offset has the effect `accessReg` gives, with the move
taken. -/
theorem step_hostNext {r : WindowReg} (h : s.hostNext off kind rest)
    (hoff : off < 0x40 ∧ off % 4 = 0) (hr : windowReg (off / 4) = some r) :
    step s = .next (accessReg r kind { s with moves := rest }) := by
  rw [step, nextMove_cons h, doMove]
  exact hostAccess_aligned _ ⟨hoff.1, rfl, hoff.2⟩ hr

/-! ## The registers at their offsets (10_state.md R30) -/

theorem step_id (h : s.hostNext 0x00 kind rest) :
    step s = .next (accessReg .id kind { s with moves := rest }) :=
  step_hostNext h (by decide) rfl

theorem step_ctrl (h : s.hostNext 0x04 kind rest) :
    step s = .next (accessReg .ctrl kind { s with moves := rest }) :=
  step_hostNext h (by decide) rfl

theorem step_status (h : s.hostNext 0x08 kind rest) :
    step s = .next (accessReg .status kind { s with moves := rest }) :=
  step_hostNext h (by decide) rfl

theorem step_cmd (h : s.hostNext 0x0C kind rest) :
    step s = .next (accessReg .cmd kind { s with moves := rest }) :=
  step_hostNext h (by decide) rfl

theorem step_reserved (hoff : off ∈ [0x10, 0x14, 0x18, 0x1C]) (h : s.hostNext off kind rest) :
    step s = .next (accessReg .reserved kind { s with moves := rest }) := by
  have hreg : ∀ o ∈ [0x10, 0x14, 0x18, 0x1C],
      (o < 0x40 ∧ o % 4 = 0) ∧ windowReg (o / 4) = some .reserved := by decide
  exact step_hostNext h (hreg off hoff).1 (hreg off hoff).2

theorem step_data (k : Fin 8) (h : s.hostNext (0x20 + 4 * k.val) kind rest) :
    step s = .next (accessReg (.data k) kind { s with moves := rest }) := by
  have hreg : ∀ k : Fin 8, windowReg ((0x20 + 4 * k.val) / 4) = some (.data k) := by decide
  exact step_hostNext h (by omega) (hreg k)

/-! ## Writes and reads, each branch -/

theorem writeCtrl_enable {v : Word} (h : v.getLsbD 1 = false) (s : State) :
    writeCtrl v s = { s with ie := v.getLsbD 0 } := by
  rw [writeCtrl, h]
  rfl

theorem writeCtrl_reset {v : Word} (h : v.getLsbD 1 = true) (s : State) :
    writeCtrl v s = s.zeroise :=
  if_pos h

/-- The two write-to-clear bits of STATUS act on different fields (10_state.md R33). -/
theorem writeStatus_eq (v : Word) (s : State) :
    writeStatus v s = { s with
      done := if v.getLsbD 1 then false else s.done
      err := if v.getLsbD 2 then false else s.err
      errcode := if v.getLsbD 2 then 0x00#8 else s.errcode } := by
  rw [writeStatus]
  cases v.getLsbD 1 <;> cases v.getLsbD 2 <;> rfl

theorem writeCmd_idle (h : s.busy = false) (v : Word) : writeCmd v s = s.accept v := by
  simp [writeCmd, h]

theorem writeCmd_busy (h : s.busy = true) (v : Word) : writeCmd v s = s.recordError .busy := by
  simp [writeCmd, h]

theorem writeData_idle (h : s.busy = false) (k : Fin 8) (v : Word) :
    writeData k v s = s.setData (putDataWord s.data k v) := by
  simp [writeData, h]

theorem writeData_busy (h : s.busy = true) (k : Fin 8) (v : Word) :
    writeData k v s = s.recordError .busy := by
  simp [writeData, h]

theorem readReg_data_idle (h : s.busy = false) (k : Fin 8) :
    readReg (.data k) s = s.returned (dataWord s.data k) := by
  simp [readReg, h]

theorem readReg_data_busy (h : s.busy = true) (k : Fin 8) :
    readReg (.data k) s = s.returnedFree := by
  simp [readReg, h]

/-- A read of CTRL, as one step (10_state.md R32). -/
theorem step_ctrl_read (h : s.hostNext 0x04 .read rest) :
    step s = .next { s with
      moves := rest, reads := (if s.ie then 0x00000001#32 else 0x00000000#32) :: s.reads } := by
  rw [step_ctrl h, ← ctrlWord_eq]
  rfl

/-- A read of CMD, as one step (10_state.md R34). -/
theorem step_cmd_read (h : s.hostNext 0x0C .read rest) :
    step s = .next { s with moves := rest, reads := 0x00000000#32 :: s.reads } :=
  step_cmd h

/-! ## The bytes of DATA (10_state.md R25, R35) -/

/-- Byte j of DATAk is byte 4k+j of DATA. -/
theorem dataWord_byte (d : Buffer) (k : Fin 8) (j : Fin 4) :
    (dataWord d k).extractLsb' (8 * j.val) 8 = d.extractLsb' (8 * (4 * k.val + j.val)) 8 := by
  apply BitVec.eq_of_getLsbD_eq
  intro n hn
  have hlow : 8 * j.val + n < 32 := by omega
  have hpos : 32 * k.val + (8 * j.val + n) = 8 * (4 * k.val + j.val) + n := by omega
  simp only [BitVec.getLsbD_extractLsb', getLsbD_dataWord, hlow, hpos, decide_true, Bool.true_and]

/-- A write of DATAk puts byte j of the word at byte 4k+j of DATA. -/
theorem putDataWord_byte_same (d : Buffer) (k : Fin 8) (v : Word) (j : Fin 4) :
    (putDataWord d k v).extractLsb' (8 * (4 * k.val + j.val)) 8 = v.extractLsb' (8 * j.val) 8 := by
  apply BitVec.eq_of_getLsbD_eq
  intro n hn
  have hword : (8 * (4 * k.val + j.val) + n) / 32 = k.val := by omega
  have hpos : 8 * (4 * k.val + j.val) + n - 32 * k.val = 8 * j.val + n := by omega
  simp only [BitVec.getLsbD_extractLsb', hn, decide_true, Bool.true_and]
  rw [getLsbD_putDataWord _ _ _ _ (by omega), if_pos hword, hpos]

/-- A write of DATAk leaves the bytes of the other words. -/
theorem putDataWord_byte_other (d : Buffer) {k : Fin 8} (v : Word) {i : Fin 32}
    (h : i.val / 4 ≠ k.val) :
    (putDataWord d k v).extractLsb' (8 * i.val) 8 = d.extractLsb' (8 * i.val) 8 := by
  apply BitVec.eq_of_getLsbD_eq
  intro n hn
  have hword : (8 * i.val + n) / 32 ≠ k.val := by omega
  simp only [BitVec.getLsbD_extractLsb', hn, decide_true, Bool.true_and]
  rw [getLsbD_putDataWord _ _ _ _ (by omega), if_neg hword]

/-! ## The statements -/

theorem State.reset_holdsResetValues : State.reset.holdsResetValues := by decide

/-- A reset writes everything R39 names. -/
theorem State.zeroise_holdsResetValues (s : State) : s.zeroise.holdsResetValues :=
  State.reset_holdsResetValues

/-- Settles O26: a hard reset is `zeroise`. -/
theorem resetGivesResetValues : Obligations.ResetGivesResetValues :=
  ⟨State.reset_holdsResetValues,
    fun _ _ h => ⟨_, step_hardReset h, State.zeroise_holdsResetValues _, rfl⟩⟩

/-- Settles O7: `withFetchWord` is a state whose core moves next on the accepted word. -/
theorem fetchWordRunsNext : Obligations.FetchWordRunsNext := by
  intro s t w i hd ht
  have hw : BitVec.ofNat 32 (w % 2 ^ 32) = BitVec.ofNat 32 w := by
    apply BitVec.eq_of_toNat_eq
    simp
  have hplaced : s.withFetchWord 32 w = s.withPending (BitVec.ofNat 32 w) := by
    rw [State.withFetchWord, hw]
  rw [hplaced]
  exact step_command (rest := s.moves) (.inl rfl) rfl hd ht

/-- Settles O20, register by register. -/
theorem windowReadValues : Obligations.WindowReadValues := by
  refine ⟨?idRead, ?ignoredWrite, ?zeroRead, ?ctrlRead, ?statusRead, ?statusWrite⟩
  case idRead => exact fun s rest h => step_id h
  case ignoredWrite =>
    intro s rest v off hoff h
    obtain rfl | hres := List.mem_cons.mp hoff
    · exact step_id h
    · exact step_reserved hres h
  case zeroRead =>
    intro s rest off hoff h
    obtain rfl | hres := List.mem_cons.mp hoff
    · exact step_cmd_read h
    · exact step_reserved hres h
  case ctrlRead => exact fun s rest h => step_ctrl_read h
  case statusRead =>
    exact fun s rest h => ⟨statusWord s, step_status h, statusWord_busy s, statusWord_done s,
      statusWord_err s, statusWord_cf s, statusWord_low s, statusWord_errcode s,
      statusWord_high s⟩
  case statusWrite =>
    intro s rest v h
    rw [step_status h]
    exact congrArg _ (writeStatus_eq v { s with moves := rest })

/-- Settles O21: the branches of `writeCmd`. -/
theorem cmdWriteAcceptsOrRecordsBusy : Obligations.CmdWriteAcceptsOrRecordsBusy := by
  intro s rest w
  refine ⟨fun h hb => ?_, fun h hb => ?_, step_cmd_read⟩
  · rw [step_cmd h]
    exact congrArg _ (writeCmd_idle (s := { s with moves := rest }) hb w)
  · rw [step_cmd h]
    exact congrArg _ (writeCmd_busy (s := { s with moves := rest }) hb w)

/-- Settles O24: the branches of `writeCtrl`. -/
theorem ctrlWriteSetsEnableOrResets : Obligations.CtrlWriteSetsEnableOrResets := by
  intro s rest v
  refine ⟨fun h hv => ?_, fun h hv => ?_, step_ctrl_read⟩
  · rw [step_ctrl h]
    exact congrArg _ (writeCtrl_enable hv { s with moves := rest })
  · refine ⟨State.zeroise { s with moves := rest }, ?_, State.zeroise_holdsResetValues _, rfl⟩
    rw [step_ctrl h]
    exact congrArg _ (writeCtrl_reset hv { s with moves := rest })

/-- Settles O22: the accesses of DATAk idle and busy, with the bytes of `dataWord` and
`putDataWord`. -/
theorem dataWordsReadAndWrite : Obligations.DataWordsReadAndWrite := by
  intro s rest k
  refine ⟨fun h hb => ⟨dataWord s.data k, ?_, dataWord_byte s.data k⟩,
    fun v h hb => ⟨putDataWord s.data k v, ?_, putDataWord_byte_same s.data k v,
      fun i hi => putDataWord_byte_other s.data v hi⟩, fun v h hb => ?_, fun h hb => ?_⟩
  · rw [step_data k h]
    exact congrArg _ (readReg_data_idle (s := { s with moves := rest }) hb k)
  · rw [step_data k h]
    exact congrArg _ (writeData_idle (s := { s with moves := rest }) hb k v)
  · rw [step_data k h]
    exact congrArg _ (writeData_busy (s := { s with moves := rest }) hb k v)
  · rw [step_data k h]
    exact congrArg _ (readReg_data_busy (s := { s with moves := rest }) hb k)

end Sys2Proof.Machine
end

section
/-! PROOFS. The decoder on the encoder's words (30_encoding.md R81 to R87): the fields of a word built
by `encodeR` or `encodeS`, each operand read back from its bits, and `decode_encode`. -/

namespace Sys2Proof

/-! ## The fields of an encoded word -/

section
open BitVec (extractLsb'_append_eq_of_le)

variable (op : BitVec 8) (d a b c : BitVec 4) (pos dig : BitVec 5)

@[simp] theorem opField_encodeR : opField (encodeR op d a b c) = op := by
  rw [opField, encodeR]
  exact BitVec.extractLsb'_append_eq_right

@[simp] theorem dField_encodeR : dField (encodeR op d a b c) = d := by
  rw [dField, encodeR, extractLsb'_append_eq_of_le (by decide)]
  exact BitVec.extractLsb'_append_eq_right

@[simp] theorem aField_encodeR : aField (encodeR op d a b c) = a := by
  rw [aField, encodeR]
  iterate 2 rw [extractLsb'_append_eq_of_le (by decide)]
  exact BitVec.extractLsb'_append_eq_right

@[simp] theorem bField_encodeR : bField (encodeR op d a b c) = b := by
  rw [bField, encodeR]
  iterate 3 rw [extractLsb'_append_eq_of_le (by decide)]
  exact BitVec.extractLsb'_append_eq_right

@[simp] theorem cField_encodeR : cField (encodeR op d a b c) = c := by
  rw [cField, encodeR]
  iterate 4 rw [extractLsb'_append_eq_of_le (by decide)]
  exact BitVec.extractLsb'_append_eq_right

@[simp] theorem reservedR_encodeR : reservedR (encodeR op d a b c) = 0#8 := by
  rw [reservedR, encodeR]
  iterate 5 rw [extractLsb'_append_eq_of_le (by decide)]
  rfl

@[simp] theorem formatR_encodeR : formatR (encodeR op d a b c) = .ok () := by
  simp [formatR]

@[simp] theorem opField_encodeS : opField (encodeS op d pos dig) = op := by
  rw [opField, encodeS]
  exact BitVec.extractLsb'_append_eq_right

@[simp] theorem dField_encodeS : dField (encodeS op d pos dig) = d := by
  rw [dField, encodeS, extractLsb'_append_eq_of_le (by decide)]
  exact BitVec.extractLsb'_append_eq_right

@[simp] theorem posField_encodeS : posField (encodeS op d pos dig) = pos := by
  rw [posField, encodeS]
  iterate 2 rw [extractLsb'_append_eq_of_le (by decide)]
  exact BitVec.extractLsb'_append_eq_right

@[simp] theorem digField_encodeS : digField (encodeS op d pos dig) = dig := by
  rw [digField, encodeS]
  iterate 3 rw [extractLsb'_append_eq_of_le (by decide)]
  exact BitVec.extractLsb'_append_eq_right

@[simp] theorem reservedS_encodeS : reservedS (encodeS op d pos dig) = 0#10 := by
  rw [reservedS, encodeS]
  iterate 4 rw [extractLsb'_append_eq_of_le (by decide)]
  rfl

@[simp] theorem formatS_encodeS : formatS (encodeS op d pos dig) = .ok () := by
  simp [formatS]

end

/-! ## Operands from their bits -/

@[simp] theorem fregOf_fregBits (r : FReg) : fregOf (fregBits r) = r := by revert r; decide

@[simp] theorem pregOf_pregBits (r : PReg) : pregOf (pregBits r) = .ok r := by revert r; decide

@[simp] theorem constOf_constBits (k : CurveConst) : constOf (constBits k) = .ok k := by
  cases k <;> rfl

@[simp] theorem componentOf_componentBits (c : Component) :
    componentOf (componentBits c) = .ok c := by
  cases c <;> rfl

@[simp] theorem formOf_formBits (g : Form) : formOf (formBits g) = .ok g := by cases g <;> rfl

@[simp] theorem modeOf_modeBits (m : DecodeMode) : modeOf (modeBits m) = .ok m := by
  cases m <;> rfl

@[simp] theorem flagOf_flagBits (v : Bool) : flagOf (flagBits v) = .ok v := by cases v <;> rfl

@[simp] theorem toFin_ofNat_pos (pos : Fin 32) : (BitVec.ofNat 5 pos.val).toFin = pos := by
  revert pos; decide

/-- A legal digit is read back from its five bits (R86). -/
theorem digitOf_ofInt {dig : Int} (h : digitLegal dig = true) :
    digitOf (BitVec.ofInt 5 dig) = .ok dig := by
  simp only [digitLegal, Bool.and_eq_true, decide_eq_true_eq] at h
  obtain ⟨hlo, hhi⟩ := h
  interval_cases dig <;> rfl

@[simp] theorem unused_nil : unused [] = .ok () := rfl

/-- A zero field passes the check for unused ones (R88). -/
@[simp] theorem unused_zero_cons (fields : List (BitVec 4)) :
    unused (0#4 :: fields) = unused fields := by
  simp [unused]

/-- The command word of a well-formed command decodes to it: the checks of R80 pass, and each operand
is read back from its bits. -/
theorem decode_encode {i : Instr} (h : i.wellFormed = true) : decode (encode i) = .ok i := by
  cases i with
  | psel pd pos dig =>
    simp [encode, decode, digitOf_ofInt (dig := dig) h, bind, Except.bind, pure, Except.pure]
  | _ => simp [encode, decode, bind, Except.bind, pure, Except.pure]

end Sys2Proof
end

section
/-! PROOFS. The family 20_memory, its accesses: what the host's reads and writes leave alone, which
accesses are answered, and the run of a host that keeps the interface (20_memory.md R51 to R55,
R61 to R67). -/

namespace Sys2Proof.Machine

variable {s t : State} {m : Move} {rest : List Move}

/-! ## What an access leaves unchanged -/

/-- An access does not touch the schedule. -/
@[simp] theorem accessReg_moves (r : WindowReg) (kind : AccessKind) (s : State) :
    (accessReg r kind s).moves = s.moves := by
  cases kind with
  | read =>
    cases r with
    | id | ctrl | status | cmd | reserved => rfl
    | data k => simp only [accessReg, readReg]; split <;> rfl
  | write v =>
    cases r with
    | id | reserved => rfl
    | ctrl => simp only [accessReg, writeReg, writeCtrl]; split <;> rfl
    | status => simp only [accessReg, writeReg, writeStatus_eq]
    | cmd => simp only [accessReg, writeReg, writeCmd]; split <;> rfl
    | data k => simp only [accessReg, writeReg, writeData]; split <;> rfl

/-- A read returns one value and changes nothing of the block (20_memory.md R55). -/
theorem readReg_sameBlock (r : WindowReg) (s : State) :
    s.sameBlock (readReg r s) ∧ ∃ v, (readReg r s).reads = v :: s.reads := by
  cases r with
  | id | ctrl | status | cmd | reserved => simp [readReg, State.sameBlock]
  | data k => cases hb : s.busy <;> simp [readReg, State.sameBlock, hb]

/-- A write that is no soft reset leaves F, P and CF alone, and DATA unless it is a write of DATAk
while idle (10_state.md R32 to R35). -/
theorem writeReg_results {r : WindowReg} {v : Word} (h : r = .ctrl → v.getLsbD 1 = false)
    (s : State) :
    (writeReg r v s).f = s.f ∧ (writeReg r v s).p = s.p ∧ (writeReg r v s).cf = s.cf ∧
      ((writeReg r v s).data ≠ s.data → s.busy = false ∧ ∃ k, r = .data k) := by
  cases r with
  | id | reserved => simp [writeReg]
  | ctrl => simp [writeReg, writeCtrl_enable (h rfl)]
  | status => simp [writeReg, writeStatus_eq]
  | cmd => cases hb : s.busy <;> simp [writeReg, writeCmd, hb]
  | data k => cases hb : s.busy <;> simp [writeReg, writeData, hb]

/-- A write that is no soft reset neither changes nor drops an accepted command (20_memory.md R65). -/
theorem writeReg_keeps_command {r : WindowReg} {v : Word} (h : r = .ctrl → v.getLsbD 1 = false)
    (hb : s.busy = true) :
    (writeReg r v s).busy = true ∧ (writeReg r v s).pending = s.pending := by
  cases r with
  | id | reserved => exact ⟨hb, rfl⟩
  | ctrl => simp [writeReg, writeCtrl_enable (h rfl), hb]
  | status => simp [writeReg, writeStatus_eq, hb]
  | cmd => simp [writeReg, writeCmd_busy hb, hb]
  | data k => simp [writeReg, writeData_busy hb, hb]

/-- An access that leaves the core busy leaves the accepted command as it is. -/
theorem accessReg_pending {r : WindowReg} {kind : AccessKind} (hb : s.busy = true)
    (ht : (accessReg r kind s).busy = true) : (accessReg r kind s).pending = s.pending := by
  cases kind with
  | read =>
    obtain ⟨⟨-, -, -, -, -, hpending, -⟩, -⟩ := readReg_sameBlock r s
    exact hpending
  | write v =>
    refine (writeReg_keeps_command (fun hr => ?_) hb).2
    by_contra hv
    rw [hr, accessReg, writeReg, writeCtrl_reset (by simpa using hv)] at ht
    cases ht

/-! ## Where the registers stand, and which accesses are answered -/

/-- The register at an aligned offset tells the offset (10_state.md R30). -/
theorem off_of_windowReg_ctrl {off : Nat} (ha : off % 4 = 0) (hr : windowReg (off / 4) = some .ctrl) :
    off = 0x04 := by
  have h : off / 4 = 1 := windowReg_off hr
  omega

theorem off_of_windowReg_data {off : Nat} {k : Fin 8} (ha : off % 4 = 0)
    (hr : windowReg (off / 4) = some (.data k)) : off = 0x20 + 4 * k.val := by
  have h : off / 4 = 8 + k.val := windowReg_off hr
  omega

/-- An aligned 32-bit access of the window is answered with the access's effect (20_memory.md R53). -/
theorem hostAccess_answers {a : Access} (h : a.aligned32) (s : State) :
    ∃ r, windowReg (a.off / 4) = some r ∧ hostAccess a s = .next (accessReg r a.kind s) := by
  obtain ⟨r, hr⟩ := windowReg_isSome (m := a.off / 4) (by have := h.1; omega)
  exact ⟨r, hr, hostAccess_aligned s h hr⟩

/-- An access of the window that is not an aligned 32-bit one is refused (20_memory.md R53). -/
theorem hostAccess_refused {a : Access} (h : a.bytes ≠ 4 ∨ a.off % 4 ≠ 0) (s : State) :
    ∃ r, hostAccess a s = .refused r := by
  unfold hostAccess
  split
  · exact ⟨_, rfl⟩
  · split
    · exact ⟨_, rfl⟩
    · exact ⟨_, if_pos (h.resolve_left ‹_›)⟩

theorem hostAccess_outside {a : Access} (h : 0x40 ≤ a.off) (s : State) :
    hostAccess a s = .refused .outsideWindow :=
  if_pos h

/-! ## A safe step answers -/

/-- The core's turn always answers, and leaves the schedule to the agents. -/
theorem coreTurn_answers (s : State) : ∃ t, coreTurn s = .next t ∧ t.moves = s.moves := by
  cases hb : s.busy
  case false => exact ⟨s, coreTurn_idle hb, rfl⟩
  case true =>
    rw [coreTurn_busy hb]
    cases hd : decode s.pending with
    | error e => exact ⟨_, complete_error hd, rfl⟩
    | ok i =>
      obtain ⟨t, ht, he⟩ := exec_effect i s
      obtain ⟨-, -, -, -, hmoves, -⟩ := he.handshake_frame
      exact ⟨t.finish, by rw [complete_ok hd, ht, finishResult_next], hmoves⟩

/-- A legal move answers, and takes nothing from the schedule behind it. -/
theorem doMove_answers (hm : m.legal) (s : State) :
    ∃ t, doMove m s = .next t ∧ t.moves = s.moves := by
  cases m with
  | host a =>
    obtain ⟨r, -, h⟩ := hostAccess_answers hm s
    exact ⟨_, h, accessReg_moves _ _ _⟩
  | coreTurn => exact coreTurn_answers s
  | hardReset => exact ⟨s.zeroise, rfl, rfl⟩
  | otherMaster a => exact hm.elim

/-- A step from a safe state answers a safe state. -/
theorem step_safe (hs : s.safe) : ∃ t, step s = .next t ∧ t.safe := by
  cases hm : s.moves with
  | nil =>
    obtain ⟨t, ht, hmoves⟩ := coreTurn_answers s
    exact ⟨t, by rw [step, nextMove_nil hm, ht], by simp [State.safe, hmoves, hm]⟩
  | cons m rest =>
    have hlegal : ∀ n ∈ m :: rest, n.legal := hm ▸ hs
    obtain ⟨hhead, htail⟩ := List.forall_mem_cons.mp hlegal
    obtain ⟨t, ht, hmoves⟩ := doMove_answers hhead { s with moves := rest }
    exact ⟨t, by rw [step, nextMove_cons hm, ht], by rw [State.safe, hmoves]; exact htail⟩

/-- Settles O19, by induction on the number of steps. -/
theorem safeRunsNeverStop : Obligations.SafeRunsNeverStop := by
  intro n
  induction n with
  | zero => exact fun s hs => ⟨s, rfl, hs⟩
  | succ n ih =>
    intro s hs
    obtain ⟨u, hu, husafe⟩ := step_safe hs
    obtain ⟨t, ht, htsafe⟩ := ih u husafe
    have hrun : Sys2Proof.core.run (n + 1) s = Sys2Proof.core.run n u := by
      simp only [Host.Core.run, show Sys2Proof.core.step s = .next u from hu]
    exact ⟨t, hrun.trans ht, htsafe⟩

/-! ## The statements about one step -/

/-- The core's turn while idle uses up the move only (20_memory.md R66). -/
theorem step_idle (h : s.coreNext rest) (hb : s.busy = false) :
    step s = .next { s with moves := rest } := by
  rw [step_coreNext h, coreTurn_idle (s := { s with moves := rest }) hb]

/-- When a move is left, the core's turn is that move. -/
theorem eq_coreTurn_of_coreNext {rest' : List Move} (h : s.coreNext rest') (hm : s.moves = m :: rest) :
    m = .coreTurn := by
  rcases h with h | ⟨h, -⟩
  · exact (List.cons.inj (hm.symm.trans h)).1
  · exact absurd (hm.symm.trans h) (List.cons_ne_nil _ _)

/-- Settles O9, by the inversion of a step; the excluded moves are those that write results. -/
theorem resultsChangeOnlyByCommandOrHost : Obligations.ResultsChangeOnlyByCommandOrHost := by
  refine ⟨fun s rest h hb => step_idle h hb, fun s t m rest hm ht hcore hreset hsrst => ?_⟩
  cases step_cases ht with
  | idle => exact ⟨rfl, rfl, rfl, fun h => absurd rfl h⟩
  | command h hb | illegal h hb => exact absurd ⟨eq_coreTurn_of_coreNext h hm, hb⟩ hcore
  | reset h => exact absurd (List.cons.inj (hm.symm.trans h)).1 hreset
  | @access rest' a r h ha hr =>
    obtain rfl : m = .host a := (List.cons.inj (hm.symm.trans h)).1
    obtain ⟨off, bytes, kind⟩ := a
    obtain ⟨-, rfl, halign⟩ := ha
    cases kind with
    | read =>
      obtain ⟨⟨hf, hp, hcf, hdata, -⟩, -⟩ := readReg_sameBlock r { s with moves := rest' }
      exact ⟨hf, hp, hcf, fun h => absurd hdata h⟩
    | write v =>
      have hctrl : r = .ctrl → v.getLsbD 1 = false := by
        rintro rfl
        obtain rfl := off_of_windowReg_ctrl halign hr
        exact Bool.eq_false_iff.mpr fun hv => hsrst v hv rfl
      obtain ⟨hf, hp, hcf, hdata⟩ := writeReg_results hctrl { s with moves := rest' }
      refine ⟨hf, hp, hcf, fun h => ?_⟩
      obtain ⟨hb, k, rfl⟩ := hdata h
      obtain rfl := off_of_windowReg_data halign hr
      exact ⟨hb, k, v, rfl⟩

/-- Settles O10: only a soft reset touches an accepted command before its Complete step, and the
Complete step runs what `decode_encode` reads back from PENDING. -/
theorem pendingFixedWhileBusy : Obligations.PendingFixedWhileBusy := by
  refine ⟨?write, ?anyStep, ?complete⟩
  case write =>
    intro s off v rest hb hoff halign hsrst h
    obtain ⟨r, hr⟩ := windowReg_isSome (m := off / 4) (by omega)
    have hctrl : r = .ctrl → v.getLsbD 1 = false := by
      rintro rfl
      exact hsrst (off_of_windowReg_ctrl halign hr)
    exact ⟨_, step_hostNext h ⟨hoff, halign⟩ hr,
      writeReg_keeps_command (s := { s with moves := rest }) hctrl hb⟩
  case anyStep =>
    intro s t hb ht hbt
    cases step_cases ht with
    | idle => rfl
    | reset => cases hbt
    | command | illegal => cases hbt
    | @access rest a r _ _ _ => exact accessReg_pending (s := { s with moves := rest }) hb hbt
  case complete =>
    intro s t rest i h hb hi hpending ht
    exact step_command h hb (hpending ▸ decode_encode hi) ht

/-- Settles O23: a read's effect is on the host's record. -/
theorem readsLeaveTheBlockUnchanged : Obligations.ReadsLeaveTheBlockUnchanged := by
  intro s rest off hoff halign h
  obtain ⟨r, hr⟩ := windowReg_isSome (m := off / 4) (by omega)
  obtain ⟨hsame, hreads⟩ := readReg_sameBlock r { s with moves := rest }
  exact ⟨_, step_hostNext h ⟨hoff, halign⟩ hr, hsame, accessReg_moves r .read _, hreads⟩

/-- Settles O6: the core's turn on a pending word that decodes. -/
theorem stepRunsDecodedCommand : Obligations.StepRunsDecodedCommand :=
  fun _ _ _ _ h hb hd ht => step_command h hb hd ht

/-- Settles O27, check by check of `hostAccess`. -/
theorem otherAccessesAreRefused : Obligations.OtherAccessesAreRefused := by
  refine ⟨?unaligned, ?outside, coreBase_aligned, ?otherMaster, ?answered⟩
  case unaligned =>
    intro s a rest hm hoff h
    rw [step, nextMove_cons hm]
    exact hostAccess_refused h _
  case outside =>
    intro s a off bytes kind rest haddr hm hoff
    rw [Access.atAddress_base] at haddr
    obtain rfl := Option.some.inj haddr
    rw [step, nextMove_cons hm]
    exact hostAccess_outside hoff _
  case otherMaster =>
    intro s a rest hm
    rw [step, nextMove_cons hm, doMove]
  case answered =>
    intro s a rest hm ha
    obtain ⟨t, ht, hmoves⟩ := doMove_answers (m := .host a) ha { s with moves := rest }
    exact ⟨t, by rw [step, nextMove_cons hm, ht], hmoves⟩

end Sys2Proof.Machine
end

section
/-! PROOFS. The curve's group law over a field: -x^2 + y^2 = 1 + d x^2 y^2 with -1 a square and d
none, so that no denominator of the addition vanishes (41_group.md R143), sums stay on the curve, and
the addition is associative. Laws of points as pairs, tied to Affine by `Affine.cast_add`. -/

namespace Sys2Proof.Machine

variable {K : Type} [Field K] {d v w : K} {p q r : K × K}

/-- The curve's equation. -/
def edwardsOn (d : K) (p : K × K) : Prop := p.2 ^ 2 - p.1 ^ 2 = 1 + d * p.1 ^ 2 * p.2 ^ 2

/-- The product that both denominators of the addition hold. -/
def edwardsCross (d : K) (p q : K × K) : K := d * (p.1 * q.1 * (p.2 * q.2))

/-- The addition. -/
def edwardsAdd (d : K) (p q : K × K) : K × K :=
  ((p.1 * q.2 + p.2 * q.1) / (1 + edwardsCross d p q),
    (p.2 * q.2 + p.1 * q.1) / (1 - edwardsCross d p q))

/-- The conditions under which no denominator of the addition vanishes. -/
structure EdwardsComplete (d : K) : Prop where
  two_ne_zero : (2 : K) ≠ 0
  minusOne_square : IsSquare (-1 : K)
  not_square : ¬ IsSquare d

/-- The product of a nonsquare and a nonzero square is no square. -/
theorem EdwardsComplete.eq_zero_of_sq_eq (hd : EdwardsComplete d) (h : v ^ 2 = d * w ^ 2) :
    w = 0 := by
  by_contra hw
  refine hd.not_square ⟨v / w, ?_⟩
  field_simp
  exact h.symm

/-- Were the product 1 or -1, d times the square of x1 y1 (i x2 + y2), and of x1 y1 (i x2 - y2), would
be a square, i being a root of -1. -/
theorem edwardsCross_sq_ne_one (hd : EdwardsComplete d) (hp : edwardsOn d p) (hq : edwardsOn d q) :
    edwardsCross d p q ^ 2 ≠ 1 := by
  intro he
  obtain ⟨i, hi⟩ := hd.minusOne_square
  have hxy : p.1 * p.2 ≠ 0 := by
    intro h0
    have : edwardsCross d p q = 0 := by rw [edwardsCross]; linear_combination d * q.1 * q.2 * h0
    simp [this] at he
  rw [edwardsOn] at hp hq
  have hsign : ∀ s : K, s ^ 2 = 1 → i * q.1 + s * q.2 = 0 := by
    intro s hs
    refine (mul_eq_zero.mp (hd.eq_zero_of_sq_eq
      (v := i * p.1 + s * edwardsCross d p q * p.2) ?_)).resolve_left hxy
    rw [edwardsCross] at he ⊢
    grind
  have hplus := hsign 1 (by ring)
  have hminus := hsign (-1) (by ring)
  have hy : q.2 = 0 := by
    refine (mul_eq_zero.mp ?_).resolve_left hd.two_ne_zero
    linear_combination hplus - hminus
  simp [edwardsCross, hy] at he

theorem one_add_edwardsCross_ne_zero (hd : EdwardsComplete d) (hp : edwardsOn d p)
    (hq : edwardsOn d q) : 1 + edwardsCross d p q ≠ 0 := by
  intro h
  exact edwardsCross_sq_ne_one hd hp hq (by linear_combination (edwardsCross d p q - 1) * h)

theorem one_sub_edwardsCross_ne_zero (hd : EdwardsComplete d) (hp : edwardsOn d p)
    (hq : edwardsOn d q) : 1 - edwardsCross d p q ≠ 0 := by
  intro h
  exact edwardsCross_sq_ne_one hd hp hq (by linear_combination (-edwardsCross d p q - 1) * h)

/-- A sum is on the curve: cleared of the denominators, its equation is in the ideal of the operands'
equations. -/
theorem edwardsOn_add (hd : EdwardsComplete d) (hp : edwardsOn d p) (hq : edwardsOn d q) :
    edwardsOn d (edwardsAdd d p q) := by
  have hG := one_add_edwardsCross_ne_zero hd hp hq
  have hF := one_sub_edwardsCross_ne_zero hd hp hq
  simp only [edwardsOn, edwardsAdd] at hp hq ⊢
  field_simp
  simp only [edwardsCross]
  grind

/-- The product at a sum, over one denominator. -/
theorem edwardsCross_add_left (d : K) (p q r : K × K) :
    edwardsCross d (edwardsAdd d p q) r =
      d * (r.1 * r.2 * ((p.1 * q.2 + p.2 * q.1) * (p.2 * q.2 + p.1 * q.1))) /
        ((1 + edwardsCross d p q) * (1 - edwardsCross d p q)) := by
  rw [edwardsCross, edwardsAdd]
  generalize 1 + edwardsCross d p q = g, 1 - edwardsCross d p q = f
  ring

theorem edwardsCross_comm (d : K) (p q : K × K) : edwardsCross d p q = edwardsCross d q p := by
  simp only [edwardsCross, mul_comm]

theorem edwardsCross_add_right (d : K) (p q r : K × K) :
    edwardsCross d p (edwardsAdd d q r) =
      d * (p.1 * p.2 * ((q.1 * r.2 + q.2 * r.1) * (q.2 * r.2 + q.1 * r.1))) /
        ((1 + edwardsCross d q r) * (1 - edwardsCross d q r)) := by
  rw [edwardsCross_comm, edwardsCross_add_left]

/-- The addition is associative on the curve: cleared of the denominators, the equation of each
coordinate is in the ideal of the three curve equations. -/
theorem edwardsAdd_assoc (hd : EdwardsComplete d) (hp : edwardsOn d p) (hq : edwardsOn d q)
    (hr : edwardsOn d r) :
    edwardsAdd d (edwardsAdd d p q) r = edwardsAdd d p (edwardsAdd d q r) := by
  have hpq := edwardsOn_add hd hp hq
  have hqr := edwardsOn_add hd hq hr
  have hG := one_add_edwardsCross_ne_zero hd hp hq
  have hF := one_sub_edwardsCross_ne_zero hd hp hq
  have hG' := one_add_edwardsCross_ne_zero hd hq hr
  have hF' := one_sub_edwardsCross_ne_zero hd hq hr
  refine Prod.ext ((div_eq_div_iff (one_add_edwardsCross_ne_zero hd hpq hr)
      (one_add_edwardsCross_ne_zero hd hp hqr)).mpr ?_)
    ((div_eq_div_iff (one_sub_edwardsCross_ne_zero hd hpq hr)
      (one_sub_edwardsCross_ne_zero hd hp hqr)).mpr ?_)
  all_goals
    rw [edwardsCross_add_left, edwardsCross_add_right, edwardsAdd, edwardsAdd]
    field_simp
    simp only [edwardsOn, edwardsCross] at hp hq hr ⊢
    grind

end Sys2Proof.Machine
end

section
/-! PROOFS. Affine points as points of the curve over GF(p), and the group commands' arithmetic as its
addition (41_group.md R142, R143, R145 to R150). -/

namespace Sys2Proof.Machine

/-! ## Canonical values in the field -/

/-- Canonical values are equal exactly when they are equal in the field. -/
theorem eq_iff_cast_eq {a b : Nat} (ha : a < prime) (hb : b < prime) :
    a = b ↔ (a : ZMod prime) = (b : ZMod prime) :=
  ⟨congrArg _, eq_of_cast_eq ha hb⟩

theorem cast_ne_zero {a : Nat} (ha : a < prime) (h : a ≠ 0) : (a : ZMod prime) ≠ 0 := by
  rwa [Ne, eq_iff_cast_eq ha prime_pos, Nat.cast_zero] at h

theorem ne_zero_of_cast {a : Nat} (h : (a : ZMod prime) ≠ 0) : a ≠ 0 := by
  rintro rfl
  exact h Nat.cast_zero

/-! ## Affine points over the field -/

/-- d meets the conditions for a complete addition (41_group.md R143). -/
theorem edwardsComplete_constD [Fact (Nat.Prime prime)] :
    EdwardsComplete ((constD : Nat) : ZMod prime) where
  two_ne_zero := by
    intro h
    have h2 : ((2 : Nat) : ZMod prime) = 0 := by exact_mod_cast h
    rw [ZMod.natCast_eq_zero_iff] at h2
    exact absurd h2 (by decide)
  minusOne_square := ⟨(constSqrtM1 : Nat), by rw [← pow_two, cast_constSqrtM1_sq]⟩
  not_square := constD_not_square

/-- The point over the field. -/
def Affine.cast (a : Affine) : ZMod prime × ZMod prime := (a.x, a.y)

/-- The coordinates are canonical. -/
def Affine.canonical (a : Affine) : Prop := a.x < prime ∧ a.y < prime

theorem Affine.eq_of_cast_eq {a b : Affine} (ha : a.canonical) (hb : b.canonical)
    (h : a.cast = b.cast) : a = b := by
  obtain ⟨hx, hy⟩ := Prod.ext_iff.mp h
  cases a
  cases b
  rw [Affine.mk.injEq]
  exact ⟨Machine.eq_of_cast_eq ha.1 hb.1 hx, Machine.eq_of_cast_eq ha.2 hb.2 hy⟩

/-- The curve's equation on canonical values is the equation over the field. -/
theorem Affine.onCurve_iff [Fact (Nat.Prime prime)] (a : Affine) :
    a.onCurve ↔ a.canonical ∧ edwardsOn ((constD : Nat) : ZMod prime) a.cast := by
  rw [Affine.onCurve, eq_iff_cast_eq (fsub_lt _ _) (fadd_lt _ _)]
  simp only [cast_fsub, cast_fadd, cast_fmul, cast_fsq, Nat.cast_one, edwardsOn, Affine.canonical,
    Affine.cast, and_assoc, mul_assoc]

theorem Affine.onCurve_canonical {a : Affine} (ha : a.onCurve) : a.canonical := ⟨ha.1, ha.2.1⟩

theorem Affine.add_canonical (a b : Affine) : (a.add b).canonical := ⟨fmul_lt _ _, fmul_lt _ _⟩

/-- The model's addition is the curve's. -/
theorem Affine.cast_add [Fact (Nat.Prime prime)] (a b : Affine) :
    (a.add b).cast = edwardsAdd ((constD : Nat) : ZMod prime) a.cast b.cast := by
  simp only [Affine.cast, Affine.add, edwardsAdd, edwardsCross, Affine.cross, cast_fmul, cast_fadd,
    cast_fsub, cast_finv, Nat.cast_one, div_eq_mul_inv]

theorem Affine.add_onCurve {a b : Affine} (ha : a.onCurve) (hb : b.onCurve) :
    (a.add b).onCurve := by
  have := prime_fact
  obtain ⟨-, ha⟩ := a.onCurve_iff.mp ha
  obtain ⟨-, hb⟩ := b.onCurve_iff.mp hb
  rw [Affine.onCurve_iff, Affine.cast_add]
  exact ⟨Affine.add_canonical _ _, edwardsOn_add edwardsComplete_constD ha hb⟩

theorem Affine.add_assoc {a b c : Affine} (ha : a.onCurve) (hb : b.onCurve) (hc : c.onCurve) :
    (a.add b).add c = a.add (b.add c) := by
  have := prime_fact
  obtain ⟨-, ha⟩ := a.onCurve_iff.mp ha
  obtain ⟨-, hb⟩ := b.onCurve_iff.mp hb
  obtain ⟨-, hc⟩ := c.onCurve_iff.mp hc
  refine Affine.eq_of_cast_eq (Affine.add_canonical _ _) (Affine.add_canonical _ _) ?_
  simp only [Affine.cast_add, edwardsAdd_assoc edwardsComplete_constD ha hb hc]

theorem Affine.add_zero {a : Affine} (ha : a.canonical) : a.add .zero = a := by
  have := prime_fact
  refine Affine.eq_of_cast_eq (Affine.add_canonical _ _) ha ?_
  rw [Affine.cast_add]
  simp [edwardsAdd, edwardsCross, Affine.cast, Affine.zero]

theorem Affine.zero_onCurve : Affine.zero.onCurve := by decide

theorem Affine.base_onCurve : Affine.base.onCurve := by decide

theorem Affine.times_onCurve {a : Affine} (ha : a.onCurve) (k : Nat) : (a.times k).onCurve := by
  induction k with
  | zero => exact Affine.zero_onCurve
  | succ k ih => exact Affine.add_onCurve ih ha

/-- Sums of multiples are multiples of sums (20_memory.md R58). -/
theorem Affine.times_add {a : Affine} (ha : a.onCurve) (m n : Nat) :
    a.times (m + n) = (a.times m).add (a.times n) := by
  induction n with
  | zero => exact (Affine.add_zero (Affine.onCurve_canonical (Affine.times_onCurve ha m))).symm
  | succ n ih =>
    rw [← Nat.add_assoc, Affine.times, Affine.times, ih,
      Affine.add_assoc (Affine.times_onCurve ha m) (Affine.times_onCurve ha n) ha]

end Sys2Proof.Machine
end

section
/-! PROOFS. Valid point registers and what the engine's arithmetic makes of them: the affine point of a
doubling, a mixed addition and a conversion (41_group.md R142, R145, R146, R148, R150), and so of every
entry of the table (20_memory.md R58). -/

namespace Sys2Proof.Machine

/-- A P2 or P3 register holds its affine point's coordinates times Z (41_group.md R142). -/
theorem PointReg.valid_projective {a : PointReg} (ha : a.valid) (hf : a.form = .P2 ∨ a.form = .P3) :
    a.aff.onCurve ∧ (a.c2 : ZMod prime) ≠ 0 ∧
      (a.c0 : ZMod prime) = a.aff.x * a.c2 ∧ (a.c1 : ZMod prime) = a.aff.y * a.c2 := by
  have := prime_fact
  obtain ⟨form, c0, c1, c2, c3⟩ := a
  obtain ⟨⟨-, -, h2, -⟩, hv⟩ := ha
  have hcurve : c2 ≠ 0 ∧ (PointReg.mk form c0 c1 c2 c3).aff.onCurve := by
    obtain rfl | rfl := hf
    · exact hv
    · exact ⟨hv.1, hv.2.1⟩
  have hz := cast_ne_zero h2 hcurve.1
  refine ⟨hcurve.2, hz, ?_⟩
  obtain rfl | rfl := hf <;>
    simp only [PointReg.aff, cast_fmul, cast_finv] <;>
    exact ⟨(inv_mul_cancel_right₀ hz _).symm, (inv_mul_cancel_right₀ hz _).symm⟩

/-- A P3 register's T is x y Z. -/
theorem PointReg.valid_T {a : PointReg} (ha : a.valid) (hf : a.form = .P3) :
    (a.c3 : ZMod prime) = a.aff.x * a.aff.y * a.c2 := by
  have := prime_fact
  obtain ⟨-, hz, hx, hy⟩ := PointReg.valid_projective ha (.inr hf)
  obtain ⟨form, c0, c1, c2, c3⟩ := a
  obtain rfl : form = .P3 := hf
  obtain ⟨-, -, -, hT⟩ := ha
  have hT := congrArg (Nat.cast (R := ZMod prime)) hT
  rw [cast_fmul, cast_fmul, hx, hy] at hT
  refine mul_left_cancel₀ hz ?_
  linear_combination -hT

/-- A P1P1 register whose components are the numerators and denominators of a sum, up to a common
factor, is valid and represents the sum (41_group.md R142, R143). -/
theorem PointReg.represents_add {r : PointReg} {a b : Affine} {k : ZMod prime}
    (hf : r.form = .P1P1) (hcan : r.canonical) (ha : a.onCurve) (hb : b.onCurve) (hk : k ≠ 0)
    (hX : (r.c0 : ZMod prime) = k * (a.x * b.y + a.y * b.x))
    (hY : (r.c1 : ZMod prime) = k * (a.y * b.y + a.x * b.x))
    (hZ : (r.c2 : ZMod prime) = k * (1 + (constD : Nat) * (a.x * b.x * (a.y * b.y))))
    (hT : (r.c3 : ZMod prime) = k * (1 - (constD : Nat) * (a.x * b.x * (a.y * b.y)))) :
    r.valid ∧ r.aff = a.add b := by
  have := prime_fact
  obtain ⟨form, c0, c1, c2, c3⟩ := r
  obtain rfl : form = .P1P1 := hf
  have haE := (a.onCurve_iff.mp ha).2
  have hbE := (b.onCurve_iff.mp hb).2
  have hG := one_add_edwardsCross_ne_zero edwardsComplete_constD haE hbE
  have hF := one_sub_edwardsCross_ne_zero edwardsComplete_constD haE hbE
  have haff : (PointReg.mk .P1P1 c0 c1 c2 c3).aff = a.add b := by
    refine Affine.eq_of_cast_eq ⟨fmul_lt _ _, fmul_lt _ _⟩ (Affine.add_canonical _ _) ?_
    rw [Affine.cast_add, Affine.cast, PointReg.aff, edwardsAdd, cast_fmul, cast_fmul, cast_finv,
      cast_finv, hX, hY, hZ, hT, ← div_eq_mul_inv, ← div_eq_mul_inv]
    exact Prod.ext (mul_div_mul_left _ _ hk) (mul_div_mul_left _ _ hk)
  refine ⟨⟨hcan, ne_zero_of_cast ?_, ne_zero_of_cast ?_, ?_⟩, haff⟩
  · exact hZ ▸ mul_ne_zero hk hG
  · exact hT ▸ mul_ne_zero hk hF
  · exact haff ▸ Affine.add_onCurve ha hb

/-- Doubling (41_group.md R145, R148). -/
theorem dbl_valid_aff {a : PointReg} (ha : a.valid) (hf : a.form = .P2 ∨ a.form = .P3) :
    (dbl a).valid ∧ (dbl a).aff = a.aff.add a.aff := by
  have := prime_fact
  obtain ⟨hon, hz, hx, hy⟩ := PointReg.valid_projective ha hf
  obtain ⟨-, hcurve⟩ := a.aff.onCurve_iff.mp hon
  simp only [edwardsOn, Affine.cast] at hcurve
  refine PointReg.represents_add (k := (a.c2 : ZMod prime) ^ 2) rfl (dbl_canonical a) hon hon
    (pow_ne_zero 2 hz) ?_ ?_ ?_ ?_
  all_goals
    simp only [dbl, cast_fsub, cast_fadd, cast_fmul, cast_fsq, Nat.cast_ofNat, hx, hy]
  · ring
  · ring
  · linear_combination (a.c2 : ZMod prime) ^ 2 * hcurve
  · linear_combination -(a.c2 : ZMod prime) ^ 2 * hcurve

/-- The precomputed record of a point of the curve represents it (20_memory.md R57). -/
theorem precomp_valid_aff {a : Affine} (ha : a.onCurve) :
    (precomp a.x a.y).valid ∧ (precomp a.x a.y).aff = a := by
  have := prime_fact
  have h2 := edwardsComplete_constD.two_ne_zero
  have haff : (precomp a.x a.y).aff = a := by
    refine Affine.eq_of_cast_eq ⟨fmul_lt _ _, fmul_lt _ _⟩ (a.onCurve_iff.mp ha).1 ?_
    simp only [PointReg.aff, precomp, Affine.cast, cast_fmul, cast_fsub, cast_fadd, cast_finv,
      Nat.cast_ofNat]
    refine Prod.ext ?_ ?_
    all_goals
      field_simp
      ring
  refine ⟨⟨precomp_canonical _ _, haff.symm ▸ ha, ?_⟩, haff⟩
  rw [haff]
  rfl

/-- A PRECOMP register holds y + x, y - x and 2 d x y (41_group.md R142). -/
theorem PointReg.valid_precomp {a : PointReg} (ha : a.valid) (hf : a.form = .PRECOMP) :
    a.aff.onCurve ∧ (a.c0 : ZMod prime) = a.aff.y + a.aff.x ∧
      (a.c1 : ZMod prime) = a.aff.y - a.aff.x ∧
      (a.c2 : ZMod prime) = 2 * (constD : Nat) * (a.aff.x * a.aff.y) := by
  have := prime_fact
  have h2 := edwardsComplete_constD.two_ne_zero
  obtain ⟨form, c0, c1, c2, c3⟩ := a
  obtain rfl : form = .PRECOMP := hf
  obtain ⟨-, hon, hT⟩ := ha
  have hT := congrArg (Nat.cast (R := ZMod prime)) hT
  rw [cast_fmul, cast_fmul, cast_constD2] at hT
  refine ⟨hon, ?_, ?_, hT⟩
  all_goals
    simp only [PointReg.aff, cast_fmul, cast_fsub, cast_fadd, cast_finv, Nat.cast_ofNat]
    field_simp
    ring

/-- Mixed addition (41_group.md R146, R148). -/
theorem mAdd_valid_aff {a b : PointReg} (ha : a.valid) (hfa : a.form = .P3) (hb : b.valid)
    (hfb : b.form = .PRECOMP) : (mAdd a b).valid ∧ (mAdd a b).aff = a.aff.add b.aff := by
  have := prime_fact
  obtain ⟨hona, hz, hx, hy⟩ := PointReg.valid_projective ha (.inr hfa)
  have ht := PointReg.valid_T ha hfa
  obtain ⟨honb, h0, h1, h2⟩ := PointReg.valid_precomp hb hfb
  refine PointReg.represents_add (k := 2 * (a.c2 : ZMod prime)) rfl (mAdd_canonical a b) hona honb
    (mul_ne_zero edwardsComplete_constD.two_ne_zero hz) ?_ ?_ ?_ ?_
  all_goals
    simp only [mAdd, cast_fsub, cast_fadd, cast_fmul, hx, hy, ht, h0, h1, h2]
    ring

/-- Conversion to P3 (41_group.md R148, R150). -/
theorem toP3_valid_aff {a : PointReg} (ha : a.valid) (hf : a.form = .P1P1) :
    (toP3 a).valid ∧ (toP3 a).aff = a.aff := by
  have := prime_fact
  obtain ⟨form, X, Y, Z, T⟩ := a
  obtain rfl : form = .P1P1 := hf
  obtain ⟨⟨-, -, hZlt, hTlt⟩, hZ, hT, hon⟩ := ha
  have hZ := cast_ne_zero hZlt hZ
  have hT := cast_ne_zero hTlt hT
  have haff : (toP3 ⟨.P1P1, X, Y, Z, T⟩).aff = (PointReg.mk .P1P1 X Y Z T).aff := by
    refine Affine.eq_of_cast_eq ⟨fmul_lt _ _, fmul_lt _ _⟩ ⟨fmul_lt _ _, fmul_lt _ _⟩ ?_
    simp only [toP3, PointReg.aff, Affine.cast, cast_fmul, cast_finv, ← div_eq_mul_inv]
    refine Prod.ext (mul_div_mul_right _ _ hT) ?_
    rw [mul_comm (Y : ZMod prime)]
    exact mul_div_mul_left _ _ hZ
  have hon' : (toP3 ⟨.P1P1, X, Y, Z, T⟩).aff.onCurve := by rw [haff]; exact hon
  refine ⟨⟨toP3_canonical _, ne_zero_of_cast ?_, hon', ?_⟩, haff⟩
  · rw [toP3, cast_fmul]
    exact mul_ne_zero hZ hT
  · refine eq_of_cast_eq (fmul_lt _ _) (fmul_lt _ _) ?_
    simp only [toP3, cast_fmul]
    ring

/-! ## The table -/

theorem identityP3_valid_aff : identityP3.valid ∧ identityP3.aff = .zero := by
  have haff : identityP3.aff = .zero := by decide +kernel
  exact ⟨⟨identityP3_canonical, by decide, haff ▸ Affine.zero_onCurve, by decide⟩, haff⟩

/-- Double-and-add computes the multiple of the base point its bits name (20_memory.md R58). -/
theorem baseMultiple_valid_aff (bits : Nat) {k : Nat} (hk : k < 2 ^ bits) :
    (baseMultiple bits k).form = .P3 ∧ (baseMultiple bits k).valid ∧
      (baseMultiple bits k).aff = Affine.base.times k := by
  induction bits generalizing k with
  | zero =>
    obtain rfl : k = 0 := by simpa using hk
    exact ⟨rfl, identityP3_valid_aff⟩
  | succ bits ih =>
    obtain ⟨hform, hvalid, haff⟩ := ih (k := k / 2) (by rw [pow_succ] at hk; omega)
    obtain ⟨hdv, hda⟩ := dbl_valid_aff hvalid (.inr hform)
    obtain ⟨htv, hta⟩ := toP3_valid_aff hdv rfl
    have htwice : (toP3 (dbl (baseMultiple bits (k / 2)))).aff =
        Affine.base.times (k / 2 + k / 2) := by
      rw [hta, hda, haff, Affine.times_add Affine.base_onCurve]
    rw [baseMultiple]
    split
    case isFalse heven =>
      exact ⟨rfl, htv, by rw [htwice]; congr 1; omega⟩
    case isTrue hodd =>
      obtain ⟨hpv, hpa⟩ := precomp_valid_aff Affine.base_onCurve
      obtain ⟨hav, haa⟩ := mAdd_valid_aff htv rfl hpv rfl
      obtain ⟨hsv, hsa⟩ := toP3_valid_aff hav rfl
      refine ⟨rfl, hsv, ?_⟩
      have hsplit : k = k / 2 + k / 2 + 1 := by omega
      conv_rhs => rw [hsplit]
      exact hsa.trans (haa.trans (by rw [hpa, htwice, Affine.times]))

/-- The precomputed record of a P3 register is that of its affine point. -/
theorem precompOf_eq {a : PointReg} (hf : a.form = .P3) :
    precompOf a = precomp a.aff.x a.aff.y := by
  simp [precompOf, PointReg.aff, hf]

/-- The largest multiple in the table, 8 256^31, is below 2^256. -/
theorem table_multiple_lt {pos j : Nat} (hpos : pos < 32) (hj : j < 8) :
    (j + 1) * 256 ^ pos < 2 ^ 256 :=
  calc (j + 1) * 256 ^ pos ≤ 8 * 256 ^ 31 :=
        Nat.mul_le_mul hj (Nat.pow_le_pow_right (by decide) (by omega))
    _ < 2 ^ 256 := by decide

/-- Settles O57: double-and-add gives the multiple, and the record is that of its affine point. -/
theorem tableHoldsBaseMultiples : Obligations.TableHoldsBaseMultiples := by
  intro pos j q hpos hj hq
  obtain ⟨hform, -, haff⟩ := baseMultiple_valid_aff 256 (table_multiple_lt hpos hj)
  rw [table, precompOf_eq hform, haff, ← hq, precomp]

end Sys2Proof.Machine
end

section
/-! PROOFS. The family 30_encoding: the decoder read backwards (30_encoding.md R80 to R89). A word is its
fields, each operand check accepts exactly the bits of its operand, and so a word that decodes is the
encoder's; what is no word of the encoder is illegal. -/

namespace Sys2Proof

variable {w : Word} {i : Instr} {x : BitVec 4}

/-! ## A word is its fields -/

section
open BitVec (extractLsb'_append_extractLsb'_eq_extractLsb' extractLsb'_eq_self)

/-- A word whose format R reserved bits are zero is built of its own fields (R81). -/
theorem encodeR_fields (h : reservedR w = 0#8) :
    encodeR (opField w) (dField w) (aField w) (bField w) (cField w) = w := by
  rw [encodeR, ← h, reservedR, cField, bField, aField, dField, opField]
  iterate 5 rw [extractLsb'_append_extractLsb'_eq_extractLsb' (by decide)]
  exact extractLsb'_eq_self

/-- A word whose format S reserved bits are zero is built of its own fields (R82). -/
theorem encodeS_fields (h : reservedS w = 0#10) :
    encodeS (opField w) (dField w) (posField w) (digField w) = w := by
  rw [encodeS, ← h, reservedS, digField, posField, dField, opField]
  iterate 4 rw [extractLsb'_append_extractLsb'_eq_extractLsb' (by decide)]
  exact extractLsb'_eq_self

end

/-- The word of format R with given fields is the one with these fields and no reserved bit set. -/
theorem encodeR_eq_iff {op : BitVec 8} {d a b c : BitVec 4} :
    encodeR op d a b c = w ↔ (opField w).toNat = op.toNat ∧ dField w = d ∧ aField w = a ∧
      bField w = b ∧ cField w = c ∧ reservedR w = 0#8 := by
  constructor
  · rintro rfl
    simp
  · rintro ⟨hop, rfl, rfl, rfl, rfl, hreserved⟩
    rw [← BitVec.eq_of_toNat_eq hop, encodeR_fields hreserved]

/-- The word of format S with given fields is the one with these fields and no reserved bit set. -/
theorem encodeS_eq_iff {op : BitVec 8} {d : BitVec 4} {pos dig : BitVec 5} :
    encodeS op d pos dig = w ↔ (opField w).toNat = op.toNat ∧ dField w = d ∧ posField w = pos ∧
      digField w = dig ∧ reservedS w = 0#10 := by
  constructor
  · rintro rfl
    simp
  · rintro ⟨hop, rfl, rfl, rfl, hreserved⟩
    rw [← BitVec.eq_of_toNat_eq hop, encodeS_fields hreserved]

/-! ## What a check accepts -/

/-- A sequence of checks passes when each one does. -/
theorem bind_eq_ok {α β : Type} {m : Except DecodeError α} {k : α → Except DecodeError β} {r : β} :
    m >>= k = .ok r ↔ ∃ v, m = .ok v ∧ k v = .ok r := by
  cases m <;> simp [bind, Except.bind]

theorem pure_eq_ok {α : Type} {v r : α} : (pure v : Except DecodeError α) = .ok r ↔ v = r := by
  simp [pure, Except.pure]

theorem formatR_eq_ok {u : Unit} : formatR w = .ok u ↔ reservedR w = 0#8 := by simp [formatR]

theorem formatS_eq_ok {u : Unit} : formatS w = .ok u ↔ reservedS w = 0#10 := by simp [formatS]

theorem unused_eq_ok {fields : List (BitVec 4)} {u : Unit} :
    unused fields = .ok u ↔ ∀ x ∈ fields, x = 0#4 := by
  simp [unused]

/-- A point register's field has bit 3 clear (R85). -/
@[simp] theorem pregBits_bit3 (r : PReg) : (pregBits r)[3] = false := by
  revert r; decide

theorem fregBits_fregOf (x : BitVec 4) : fregBits (fregOf x) = x := by
  revert x; decide

theorem pregOf_eq_ok {r : PReg} : pregOf x = .ok r ↔ x = pregBits r := by
  revert x r; decide

theorem constOf_eq_ok {k : CurveConst} : constOf x = .ok k ↔ x = constBits k := by
  cases k <;> revert x <;> decide

theorem componentOf_eq_ok {c : Component} : componentOf x = .ok c ↔ x = componentBits c := by
  cases c <;> revert x <;> decide

theorem formOf_eq_ok {g : Form} : formOf x = .ok g ↔ x = formBits g := by
  cases g <;> revert x <;> decide

theorem modeOf_eq_ok {m : DecodeMode} : modeOf x = .ok m ↔ x = modeBits m := by
  cases m <;> revert x <;> decide

theorem flagOf_eq_ok {v : Bool} : flagOf x = .ok v ↔ x = flagBits v := by
  revert x v; decide

theorem digitLegal_iff {dig : Int} : digitLegal dig = true ↔ -8 ≤ dig ∧ dig ≤ 8 := by
  simp [digitLegal]

/-- A legal digit fits its five bits (R86). -/
theorem toInt_ofInt_digit {dig : Int} (h : digitLegal dig = true) :
    (BitVec.ofInt 5 dig).toInt = dig := by
  obtain ⟨hlo, hhi⟩ := digitLegal_iff.mp h
  exact BitVec.toInt_ofInt_eq_self (by decide) (by omega) (by omega)

/-- An accepted digit is legal, and its field holds it in two's complement (R86). -/
theorem digitOf_eq_ok {x : BitVec 5} {dig : Int} :
    digitOf x = .ok dig ↔ digitLegal dig = true ∧ x = BitVec.ofInt 5 dig := by
  constructor
  · intro h
    simp only [digitOf] at h
    split at h
    next hrange =>
      cases h
      exact ⟨digitLegal_iff.mpr hrange, BitVec.ofInt_toInt.symm⟩
    next => cases h
  · rintro ⟨hlegal, rfl⟩
    exact digitOf_ofInt hlegal

/-! ## Words that decode -/

/-- A word that decodes is the word of a well-formed command. Opcode by opcode, the checks of R80 say
what each field of the word holds, and these are the fields the encoder fills in. -/
theorem encode_decode (h : decode w = .ok i) : i.wellFormed = true ∧ encode i = w := by
  unfold decode at h
  split at h
  case h_37 => cases h -- no opcode of the table
  case h_34 hop => -- PSEL, the one command of format S
    simp only [bind_eq_ok, pure_eq_ok, formatS_eq_ok, pregOf_eq_ok, digitOf_eq_ok] at h
    obtain ⟨-, hreserved, pd, hd, dig, ⟨hlegal, hdig⟩, rfl⟩ := h
    exact ⟨hlegal, encodeS_eq_iff.mpr ⟨hop, hd, by simp, hdig, hreserved⟩⟩
  all_goals
    revert h
    simp only [bind_eq_ok, pure_eq_ok, formatR_eq_ok, unused_eq_ok, pregOf_eq_ok, constOf_eq_ok,
      componentOf_eq_ok, formOf_eq_ok, modeOf_eq_ok, flagOf_eq_ok, List.forall_mem_cons,
      forall_exists_index, and_imp]
    intros
    subst_vars
    simp [encode, encodeR_eq_iff, Instr.wellFormed, fregBits_fregOf, *]

/-- A word that is no well-formed command's decodes to an error. -/
theorem decode_error_of_encode_ne (h : ∀ i : Instr, i.wellFormed = true → encode i ≠ w) :
    ∃ e, decode w = .error e := by
  cases hd : decode w with
  | error e => exact ⟨e, rfl⟩
  | ok i =>
    obtain ⟨hi, hw⟩ := encode_decode hd
    exact absurd hw (h i hi)

/-! ## The statements about the decoder -/

/-- Settles O1: each operand is read back from its bits. -/
theorem decodeInvertsEncode : Obligations.DecodeInvertsEncode :=
  fun _ h => decode_encode h

/-- Settles O2: the fields of a word that passes the checks are the encoder's. -/
theorem encodeInvertsDecode : Obligations.EncodeInvertsDecode :=
  fun _ _ h => encode_decode h

/-- Settles O5: no well-formed command's word has such a field or opcode. -/
theorem illegalFieldsAreRejected : Obligations.IllegalFieldsAreRejected := by
  intro w
  refine ⟨fun hop hbit => ?pointD, fun hop hbit => ?pointA, fun hop hbit => ?pointB,
    fun hop hdig => ?digit, fun hop => ?opcode⟩
  all_goals
    refine decode_error_of_encode_ne fun i hi hw => ?_
    subst hw
  case pointD | pointA | pointB => cases i <;> simp [encode] at hop hbit
  case digit =>
    cases i with
    | psel pd pos dig =>
      obtain ⟨hlo, hhi⟩ := digitLegal_iff.mp hi
      rw [encode, digField_encodeS, toInt_ofInt_digit hi] at hdig
      omega
    | _ => simp [encode] at hop
  case opcode => cases i <;> simp [encode] at hop

/-- Settles O3: the decoder evaluated on each word. -/
theorem exampleWordsDecode : Obligations.ExampleWordsDecode := by
  unfold Obligations.ExampleWordsDecode
  decide

end Sys2Proof
end

section
/-! PROOFS. The family 30_encoding, the Complete step of an illegal word (30_encoding.md R89). -/

namespace Sys2Proof.Machine

variable {s : State} {rest : List Move}

/-- The core's turn on a pending word that decodes to no command records E_ILLEGAL and ends the
command (20_memory.md R66). -/
theorem step_illegal {e : DecodeError} (h : s.coreNext rest) (hb : s.busy = true)
    (hd : decode s.pending = .error e) :
    step s = .next (State.recordError { s with moves := rest } .illegal).finish := by
  rw [step_coreNext h, coreTurn_busy (s := { s with moves := rest }) hb,
    complete_error (s := { s with moves := rest }) hd]

/-- Settles O4: the Complete step of an illegal word records the error only, and NOP has one word. -/
theorem illegalWordRaisesIllegal : Obligations.IllegalWordRaisesIllegal := by
  refine ⟨fun s rest e h hb hd => step_illegal h hb hd, fun w h => ?_⟩
  obtain ⟨-, hw⟩ := encode_decode h
  exact hw.symm.trans (by decide)

end Sys2Proof.Machine
end

section
/-! PROOFS. The family 40_field, its arithmetic: the primitives of 00_scope.md R9 satisfy the laws of
the field on canonical values (40_field.md R105 to R112, R120), each law read in ZMod p. -/

namespace Sys2Proof.Machine

variable {a : Nat}

/-! ## Addition and multiplication -/

theorem fadd_comm (a b : Nat) : fadd a b = fadd b a := by rw [fadd, Nat.add_comm, fadd]

theorem fadd_assoc (a b c : Nat) : fadd (fadd a b) c = fadd a (fadd b c) := by
  refine eq_of_cast_eq (fadd_lt _ _) (fadd_lt _ _) ?_
  simp only [cast_fadd]
  ring

theorem fadd_zero (ha : a < prime) : fadd a 0 = a := Nat.mod_eq_of_lt ha

theorem fadd_fneg (a : Nat) : fadd a (fneg a) = 0 := by
  refine eq_of_cast_eq (fadd_lt _ _) prime_pos ?_
  rw [cast_fadd, cast_fneg, add_neg_cancel, Nat.cast_zero]

/-- Subtraction adds the negation (40_field.md R106, R107). -/
theorem fsub_eq_fadd_fneg (a b : Nat) : fsub a b = fadd a (fneg b) := by
  refine eq_of_cast_eq (fsub_lt _ _) (fadd_lt _ _) ?_
  rw [cast_fsub, cast_fadd, cast_fneg, sub_eq_add_neg]

theorem fmul_comm (a b : Nat) : fmul a b = fmul b a := by rw [fmul, Nat.mul_comm, fmul]

theorem fmul_assoc (a b c : Nat) : fmul (fmul a b) c = fmul a (fmul b c) := by
  refine eq_of_cast_eq (fmul_lt _ _) (fmul_lt _ _) ?_
  simp only [cast_fmul]
  ring

theorem fmul_one (ha : a < prime) : fmul a 1 = a := by rw [fmul, Nat.mul_one, Nat.mod_eq_of_lt ha]

theorem fmul_fadd (a b c : Nat) : fmul a (fadd b c) = fadd (fmul a b) (fmul a c) := by
  refine eq_of_cast_eq (fmul_lt _ _) (fadd_lt _ _) ?_
  simp only [cast_fmul, cast_fadd]
  ring

theorem fsq_eq_fmul (a : Nat) : fsq a = fmul a a := by rw [fsq, pow_two, fmul]

/-- FSQ2 computes twice the square (40_field.md R110). -/
theorem fmul_two_fsq (a : Nat) : fmul 2 (fsq a) = 2 * (a * a) % prime := by
  rw [fmul, fsq, pow_two, Nat.mul_mod_mod]

theorem fmul_two_eq_fadd (a : Nat) : fmul 2 a = fadd a a := by rw [fmul, Nat.two_mul, fadd]

/-! ## Powers and the inverse -/

theorem finv_eq_pow (a : Nat) : finv a = a ^ (prime - 2) % prime :=
  fpow_eq a _ inverse_exponent_lt

theorem fpow22523_eq_pow (a : Nat) : fpow22523 a = a ^ ((prime - 5) / 8) % prime :=
  fpow_eq a _ root_exponent_lt

/-- The root power fixes 0, 1 and -1, its exponent being odd (40_field.md R112). -/
theorem fpow22523_fixed (h : a = 0 ∨ a = 1 ∨ a = prime - 1) : fpow22523 a = a := by
  have hlt : a < prime := by obtain rfl | rfl | rfl := h <;> decide
  refine eq_of_cast_eq (fpow22523_lt _) hlt ?_
  rw [cast_fpow22523]
  obtain rfl | rfl | rfl := h
  · rw [Nat.cast_zero, zero_pow (by decide)]
  · rw [Nat.cast_one, one_pow]
  · have hodd : Odd ((prime - 5) / 8) := Nat.odd_iff.mpr (by decide)
    rw [Nat.cast_sub one_lt_prime.le, ZMod.natCast_self, Nat.cast_one, zero_sub, hodd.neg_one_pow]

/-- FINV inverts (40_field.md R111). -/
theorem fmul_finv (ha : a < prime) (h : a ≠ 0) : fmul a (finv a) = 1 := by
  have := prime_fact
  refine eq_of_cast_eq (fmul_lt _ _) one_lt_prime ?_
  rw [cast_fmul, cast_finv, mul_inv_cancel₀ (cast_ne_zero ha h), Nat.cast_one]

theorem finv_zero : finv 0 = 0 := by
  have := prime_fact
  refine eq_of_cast_eq (finv_lt _) prime_pos ?_
  rw [cast_finv, Nat.cast_zero, inv_zero]

theorem finv_one : finv 1 = 1 := by
  have := prime_fact
  refine eq_of_cast_eq (finv_lt _) one_lt_prime ?_
  rw [cast_finv, Nat.cast_one, inv_one]

theorem finv_finv (ha : a < prime) : finv (finv a) = a := by
  have := prime_fact
  refine eq_of_cast_eq (finv_lt _) ha ?_
  rw [cast_finv, cast_finv, inv_inv]

/-! ## The statements -/

/-- Writing equal values gives equal answers. -/
theorem next_setF_congr {v w : Nat} (h : v = w) (r : FReg) (s : State) :
    (.next (s.setF r v) : Result) = .next (s.setF r w) := by
  rw [h]

/-- Settles O36: FINV of what FINV wrote reads the inverse back, and inverting twice is the
identity. -/
theorem finvInverts : Obligations.FinvInverts := by
  intro fd fa fe s
  refine ⟨finv s.f[fa], finv_eq_pow _, rfl, fun hcan => ⟨fmul_finv hcan, ?zero, ?one, ?twice⟩⟩
  case zero => intro h; rw [h, finv_zero]
  case one => intro h; rw [h, finv_one]
  case twice =>
    have hread : finv ((s.setF fd (finv s.f[fa])).getF fd) = s.f[fa] := by
      rw [State.getF_setF_self, finv_finv hcan]
    exact next_setF_congr hread fe (s.setF fd (finv s.f[fa]))

/-- Settles O51: the commands compute the primitives, and each law is one of the lemmas above. -/
theorem fieldLawsHold : Obligations.FieldLawsHold := by
  refine ⟨fadd, fsub, fmul, fneg, fsq, fun a => fmul 2 (fsq a), finv,
    fun _ _ _ _ => ⟨rfl, rfl, rfl, rfl, rfl, rfl, rfl⟩, fun a b c ha _ _ => ⟨?canonical, ?laws⟩⟩
  case canonical =>
    exact ⟨fadd_lt a b, fsub_lt a b, fmul_lt a b, fneg_lt a, fsq_lt a, fmul_lt 2 _, finv_lt a⟩
  case laws =>
    exact ⟨fadd_comm a b, fadd_assoc a b c, fmul_comm a b, fmul_assoc a b c, fmul_fadd a b c,
      fadd_zero ha, fmul_one ha, fadd_fneg a, fsub_eq_fadd_fneg a b, fmul_finv ha, finv_finv ha,
      fsq_eq_fmul a, fmul_two_eq_fadd _⟩

/-- Settles O33: the primitives answer the integer residues. -/
theorem additiveCommandsCompute : Obligations.AdditiveCommandsCompute := by
  intro fd fa fb s
  exact ⟨fadd s.f[fa] s.f[fb], fsub s.f[fa] s.f[fb], fneg s.f[fa], fadd_lt _ _, fsub_lt _ _,
    fneg_lt _, by simp [fadd], fsub_cast _ _, fneg_cast _, rfl, rfl, rfl⟩

/-- Settles O34: FMUL is the product by definition, FSQ and FSQ2 in their own form of it. -/
theorem multiplicativeCommandsCompute : Obligations.MultiplicativeCommandsCompute := by
  intro fd fa fb s
  refine ⟨rfl, ?square, ?doubled⟩
  case square => exact next_setF_congr (fsq_eq_fmul s.f[fa]) fd s
  case doubled => exact next_setF_congr (fmul_two_fsq s.f[fa]) fd s

/-- Settles O35: the power loop computes the powers, and the root power fixes 0, 1 and -1. -/
theorem powerCommandsCompute : Obligations.PowerCommandsCompute := by
  refine ⟨fun fd fa s => ⟨?inverse, ?root⟩, by decide, by decide, fun fd fa s h => ?fixed⟩
  case inverse => exact next_setF_congr (finv_eq_pow s.f[fa]) fd s
  case root => exact next_setF_congr (fpow22523_eq_pow s.f[fa]) fd s
  case fixed => exact next_setF_congr (fpow22523_fixed h) fd s

end Sys2Proof.Machine
end

section
/-! PROOFS. The family 40_field, the square root of a ratio (40_field.md R114), shared with PDEC
(41_group.md R155): the candidate, what its square is, and when a root is found. -/

namespace Sys2Proof.Machine

variable {u v w x : Nat}

/-! ## The candidate -/

/-- The first candidate of `sqrtRatio`, in the model's own order of operations. -/
def rootCandidate (u v : Nat) : Nat :=
  fmul (fmul (fpow22523 (fmul (fmul (fsq (fmul (fsq v) v)) v) u)) (fmul (fsq v) v)) u

/-- The three branches of `sqrtRatio`. -/
theorem sqrtRatio_eq (u v : Nat) :
    sqrtRatio u v =
      if fmul v (fsq (rootCandidate u v)) = u then some (rootCandidate u v)
      else if fmul v (fsq (rootCandidate u v)) = fneg u then
        some (fmul (rootCandidate u v) constSqrtM1)
      else none := rfl

theorem cast_rootCandidate (u v : Nat) :
    ((rootCandidate u v : Nat) : ZMod prime) = u * v ^ 3 * (u * v ^ 7) ^ ((prime - 5) / 8) := by
  have hbase : ((fmul (fmul (fsq (fmul (fsq v) v)) v) u : Nat) : ZMod prime) = u * v ^ 7 := by
    simp only [cast_fmul, cast_fsq]
    ring
  rw [rootCandidate, cast_fmul, cast_fmul, cast_fpow22523, hbase, cast_fmul, cast_fsq]
  generalize ((u : ZMod prime) * v ^ 7) ^ ((prime - 5) / 8) = r
  ring

/-- The candidate is u v^3 (u v^7)^((p-5)/8). -/
theorem rootCandidate_eq (u v : Nat) :
    rootCandidate u v = u * v ^ 3 * (u * v ^ 7) ^ ((prime - 5) / 8) % prime := by
  refine eq_of_cast_eq (fmul_lt _ _) (Nat.mod_lt _ prime_pos) ?_
  rw [cast_rootCandidate, ZMod.natCast_mod]
  push_cast
  rfl

/-- The value tested, v x^2. -/
theorem fmul_fsq_eq (v x : Nat) : fmul v (fsq x) = v * x ^ 2 % prime := by
  rw [fmul, fsq, Nat.mul_mod_mod]

/-- The candidate x satisfies v x^2 = u up to the factor (u v^7)^((p-1)/4). -/
theorem cast_fmul_fsq_rootCandidate (u v : Nat) :
    ((fmul v (fsq (rootCandidate u v)) : Nat) : ZMod prime) =
      u * (u * v ^ 7) ^ ((prime - 1) / 4) := by
  have hexp : (prime - 1) / 4 = 2 * ((prime - 5) / 8) + 1 := by decide
  rw [cast_fmul, cast_fsq, cast_rootCandidate, hexp,
    pow_succ ((u : ZMod prime) * v ^ 7), Nat.mul_comm 2, pow_mul]
  generalize ((u : ZMod prime) * v ^ 7) ^ ((prime - 5) / 8) = r
  ring

/-! ## What a root is, and when one is found -/

/-- A root that is found is one: the second candidate's square is -1 times the first's. -/
theorem fmul_fsq_of_sqrtRatio (hu : u < prime) (h : sqrtRatio u v = some x) :
    fmul v (fsq x) = u := by
  rw [sqrtRatio_eq] at h
  split at h
  next hfirst => cases h; exact hfirst
  next =>
    split at h
    next hsecond =>
      cases h
      have hsecond := congrArg (Nat.cast (R := ZMod prime)) hsecond
      refine eq_of_cast_eq (fmul_lt _ _) hu ?_
      simp only [cast_fmul, cast_fsq, cast_fneg] at hsecond ⊢
      rw [mul_pow, cast_constSqrtM1_sq]
      linear_combination -hsecond
    next => cases h

/-- When (u v^7)^((p-1)/4) is 1 or -1, one of the tests succeeds. -/
theorem exists_sqrtRatio_of_pow (hu : u < prime)
    (h : ((u : ZMod prime) * v ^ 7) ^ ((prime - 1) / 4) = 1 ∨
      ((u : ZMod prime) * v ^ 7) ^ ((prime - 1) / 4) = -1) :
    ∃ x, sqrtRatio u v = some x := by
  have htest := cast_fmul_fsq_rootCandidate u v
  rw [sqrtRatio_eq]
  obtain hone | hneg := h
  · have hfirst : fmul v (fsq (rootCandidate u v)) = u :=
      eq_of_cast_eq (fmul_lt _ _) hu (by rw [htest, hone, mul_one])
    exact ⟨_, if_pos hfirst⟩
  · have hsecond : fmul v (fsq (rootCandidate u v)) = fneg u :=
      eq_of_cast_eq (fmul_lt _ _) (fneg_lt _) (by rw [htest, hneg, cast_fneg, mul_neg, mul_one])
    by_cases hfirst : fmul v (fsq (rootCandidate u v)) = u
    · exact ⟨_, if_pos hfirst⟩
    · exact ⟨_, (if_neg hfirst).trans (if_pos hsecond)⟩

/-- The root of 0 is 0, whatever the denominator. -/
theorem sqrtRatio_zero_left (v : Nat) : sqrtRatio 0 v = some 0 := by
  have hcand : rootCandidate 0 v = 0 := by rw [rootCandidate, fmul, Nat.mul_zero, Nat.zero_mod]
  have htest : fmul v (fsq 0) = 0 := by simp [fmul_fsq_eq]
  rw [sqrtRatio_eq, hcand, if_pos htest]

/-- Over the denominator 0, nothing but 0 has a root. -/
theorem sqrtRatio_zero_right (hu : u < prime) (h : u ≠ 0) : sqrtRatio u 0 = none := by
  cases hroot : sqrtRatio u 0 with
  | none => rfl
  | some x =>
    have hzero : fmul 0 (fsq x) = 0 := by simp [fmul]
    exact absurd ((fmul_fsq_of_sqrtRatio hu hroot).symm.trans hzero) h

/-- A ratio that is a square has its root found: (u v^7)^((p-1)/4) is v^(2(p-1)) w^((p-1)/2), a
sign by Fermat's theorem. -/
theorem exists_sqrtRatio (hu : u < prime) (hv : v < prime) (hv0 : v ≠ 0)
    (h : u = v * w ^ 2 % prime) : ∃ x, sqrtRatio u v = some x := by
  have := prime_fact
  by_cases hw : (w : ZMod prime) = 0
  case pos =>
    have hu0 : u = 0 := eq_of_cast_eq hu prime_pos (by rw [h, ZMod.natCast_mod]; simp [hw])
    rw [hu0]
    exact ⟨0, sqrtRatio_zero_left v⟩
  case neg =>
    have hvz := cast_ne_zero hv hv0
    have hsplit : (u : ZMod prime) * v ^ 7 = v ^ 8 * w ^ 2 := by
      rw [h, ZMod.natCast_mod]
      push_cast
      ring
    have hexp8 : 8 * ((prime - 1) / 4) = (prime - 1) * 2 := by decide
    have hexp2 : 2 * ((prime - 1) / 4) = prime / 2 := by decide
    have hpow :
        ((u : ZMod prime) * v ^ 7) ^ ((prime - 1) / 4) = (w : ZMod prime) ^ (prime / 2) := by
      rw [hsplit, mul_pow, ← pow_mul, ← pow_mul, hexp8, hexp2, pow_mul,
        ZMod.pow_card_sub_one_eq_one hvz, one_pow, one_mul]
    refine exists_sqrtRatio_of_pow hu ?_
    rw [hpow]
    exact ZMod.pow_div_two_eq_neg_one_or_one prime hw

/-! ## The command -/

theorem exec_fsqrtr_some {fd fa fb : FReg} {s : State} (h : sqrtRatio s.f[fa] s.f[fb] = some x) :
    exec (.fsqrtr fd fa fb) s = .next ((s.setF fd x).setCF true) := by
  simp only [exec, execFsqrtr, State.getF, h]

theorem exec_fsqrtr_none {fd fa fb : FReg} {s : State} (h : sqrtRatio s.f[fa] s.f[fb] = none) :
    exec (.fsqrtr fd fa fb) s = .next (s.setCF false) := by
  simp only [exec, execFsqrtr, State.getF, h]

/-- Settles O39: a root is found, and the command sets CF. -/
theorem fsqrtrFindsEveryRoot : Obligations.FsqrtrFindsEveryRoot := by
  intro fd fa fb s w hu hv hv0 h
  obtain ⟨x, hx⟩ := exists_sqrtRatio hu hv hv0 h
  exact ⟨_, exec_fsqrtr_some hx, rfl⟩

/-- Settles O37: the branches of `sqrtRatio`, the candidate and its test in the statement's form. -/
theorem fsqrtrComputesByFormula : Obligations.FsqrtrComputesByFormula := by
  intro fd fa fb s u v x hu hv hx
  have hroot := sqrtRatio_eq u v
  rw [rootCandidate_eq, ← hx, fmul_fsq_eq] at hroot
  have hneg : ((v * x ^ 2 % prime : Nat) : Int) = -(u : Int) % prime ↔
      v * x ^ 2 % prime = fneg u := by
    rw [← fneg_cast, Int.natCast_inj]
  simp only [hneg]
  subst hu hv
  split at hroot
  next hfirst => rw [if_pos hfirst]; exact exec_fsqrtr_some hroot
  next hfirst =>
    rw [if_neg hfirst]
    split at hroot
    next hsecond => rw [if_pos hsecond]; exact exec_fsqrtr_some hroot
    next hsecond => rw [if_neg hsecond]; exact exec_fsqrtr_none hroot

/-- Settles O38, by whether a root is found. -/
theorem fsqrtrRootIsARoot : Obligations.FsqrtrRootIsARoot := by
  intro fd fa fb s hu
  cases hroot : sqrtRatio s.f[fa] s.f[fb] with
  | some x =>
    have hread : ((s.setF fd x).setCF true).f[fd] = x := State.getF_setF_self s fd x
    refine ⟨_, exec_fsqrtr_some hroot, fun _ => ?root, nofun, fun h => ⟨rfl, ?zero⟩,
      fun hv hne => ?noRoot⟩
    case root => rw [hread, ← fmul_fsq_eq, fmul_fsq_of_sqrtRatio hu hroot]
    case zero =>
      rw [h, sqrtRatio_zero_left] at hroot
      cases hroot
      exact hread
    case noRoot =>
      rw [hv, sqrtRatio_zero_right hu hne] at hroot
      cases hroot
  | none =>
    refine ⟨_, exec_fsqrtr_none hroot, nofun, fun _ => rfl, fun h => ?_, fun _ _ => rfl⟩
    rw [h, sqrtRatio_zero_left] at hroot
    cases hroot

end Sys2Proof.Machine
end

section
/-! PROOFS. The family 40_field, the constants, moves, predicates and byte commands (40_field.md R101
to R104, R115 to R119). -/

namespace Sys2Proof.Machine

variable {x : Nat}

/-- D2 is 2 d mod p (00_scope.md R14). -/
theorem constD2_eq : constD2 = 2 * constD % prime := by decide

/-- SQRTM1 squares to -1 (00_scope.md R14). -/
theorem constSqrtM1_sq : constSqrtM1 ^ 2 % prime = prime - 1 := by decide +kernel

/-- Bit 0 is the parity FISNEG tests (40_field.md R115). -/
theorem negFlag_eq_testBit (x : Nat) : negFlag x = x.testBit 0 := by
  rw [Nat.testBit_zero]
  rfl

theorem prime_lt_two_pow : prime < 2 ^ 255 := by decide

/-- A canonical value fits 255 bits of DATA (40_field.md R119). -/
theorem toBytes_toNat (hx : x < prime) : (toBytes x).toNat = x :=
  Nat.mod_eq_of_lt (hx.trans (prime_lt_two_pow.trans (by decide)))

theorem toBytes_topBit (hx : x < prime) : (toBytes x).getLsbD 255 = false := by
  rw [← BitVec.testBit_toNat, toBytes_toNat hx]
  exact Nat.testBit_eq_false_of_lt (hx.trans prime_lt_two_pow)

/-- Byte i of a buffer is digit i of its integer to the base 256 (00_scope.md R8). -/
theorem extractLsb'_byte_toNat (d : Buffer) (i : Nat) :
    (d.extractLsb' (8 * i) 8).toNat = d.toNat / 256 ^ i % 256 := by
  simp only [BitVec.extractLsb'_toNat, Nat.shiftRight_eq_div_pow, pow_mul, Nat.reducePow]

/-- FLD takes back what FST stored (40_field.md R118, R119). -/
theorem fromBytes_toBytes (hx : x < prime) : fromBytes (toBytes x) = x := by
  rw [fromBytes, toBytes_toNat hx, Nat.mod_eq_of_lt (hx.trans prime_lt_two_pow),
    Nat.mod_eq_of_lt hx]

/-- Settles O41: the bytes of a canonical value, and reading them back. -/
theorem byteCommandsConvert : Obligations.ByteCommandsConvert := by
  intro fd fa s
  refine ⟨rfl, toBytes s.f[fa], rfl, fun hcan =>
    ⟨toBytes_toNat hcan, toBytes_topBit hcan, fun i => ?byte, ?reload⟩⟩
  case byte => rw [extractLsb'_byte_toNat, toBytes_toNat hcan]
  case reload => exact next_setF_congr (fromBytes_toBytes hcan) fd (s.setData (toBytes s.f[fa]))

/-- Settles O31: the constants are those of R14. -/
theorem constantCommandsLoad : Obligations.ConstantCommandsLoad := fun fd s =>
  ⟨rfl, rfl, rfl, next_setF_congr constD2_eq fd s, rfl, constSqrtM1_sq⟩

/-- Settles O32, FCMOV by the value of CF. -/
theorem fieldMovesCopy : Obligations.FieldMovesCopy := by
  intro fd fa s
  refine ⟨rfl, fun h => ?copies, fun h => ?keeps⟩
  case copies => exact congrArg Host.Outcome.next (if_pos h)
  case keeps => exact congrArg Host.Outcome.next (if_neg (by simp [h]))

/-- Settles O40: the flags are bit 0 and the test for 0. -/
theorem predicatesWriteCF : Obligations.PredicatesWriteCF := fun fa s =>
  ⟨congrArg (fun v => Host.Outcome.next (s.setCF v)) (negFlag_eq_testBit s.f[fa]), rfl⟩

end Sys2Proof.Machine
end

section
/-! PROOFS. The family 41_group, errors and forms: which error a command raises, said once for every
command (41_group.md R141, 42_fixed_base.md R185, R190, 60_exceptions.md R214). -/

namespace Sys2Proof.Machine

variable {i : Instr} {s t u : State} {pa pb : PReg} {a : PointReg} {accepted : Bool} {c : ErrorCode}

/-! ## The error a command raises -/

/-- The error of a form check: E_FORM unless the forms are accepted (41_group.md R141). -/
def formError (accepted : Bool) : Option ErrorCode := if accepted then none else some .form

/-- The error a command raises in a state, if it raises one: only these commands check anything. -/
def raises (s : State) : Instr → Option ErrorCode
  | .pdbl _ pa | .penc pa => formError (isP2orP3 (s.getP pa))
  | .padd _ pa pb => formError (hasForm .P3 (s.getP pa) && hasForm .CACHED (s.getP pb))
  | .pmadd _ pa pb => formError (hasForm .P3 (s.getP pa) && hasForm .PRECOMP (s.getP pb))
  | .ptop2 _ pa => formError (isP1P1orP3 (s.getP pa))
  | .ptop3 _ pa => formError (hasForm .P1P1 (s.getP pa))
  | .ptocached _ pa => formError (hasForm .P3 (s.getP pa))
  | .psel _ _ dig => if -8 ≤ dig ∧ dig ≤ 8 then none else some .illegal
  | .smulb _ => if scalarTopBit s then some .scalar else none
  | _ => none

/-- A failed form check answers the error it names. -/
theorem withForm_of_formError (h : formError accepted = some c) :
    withForm accepted s t = .next (s.recordError c) := by
  cases accepted <;> cases h
  rfl

/-- An accepted form check answers its command's effect. -/
theorem withForm_of_formError_none (h : formError accepted = none) :
    withForm accepted s t = .next t := by
  cases accepted <;> cases h
  rfl

/-- A command that raises an error answers it and nothing else (60_exceptions.md R212). -/
theorem exec_of_raises (h : raises s i = some c) : exec i s = .next (s.recordError c) := by
  cases i with
  | pdbl | padd | pmadd | ptop2 | ptop3 | ptocached | penc => exact withForm_of_formError h
  | psel pd pos dig =>
    obtain ⟨hdig, rfl⟩ : ¬(-8 ≤ dig ∧ dig ≤ 8) ∧ .illegal = c := by simpa [raises] using h
    exact if_neg hdig
  | smulb pd =>
    obtain ⟨htop, rfl⟩ : scalarTopBit s = true ∧ .scalar = c := by simpa [raises] using h
    exact if_pos htop
  | _ => cases h

/-- A command that raises no error leaves ERR and ERRCODE alone. -/
theorem exec_status_of_not_raises (h : raises s i = none) (ht : exec i s = .next t) :
    t.err = s.err ∧ t.errcode = s.errcode := by
  cases i with
  | pdbl | padd | pmadd | ptop2 | ptop3 | ptocached | penc =>
    cases (withForm_of_formError_none h).symm.trans ht
    exact ⟨rfl, rfl⟩
  | psel pd pos dig =>
    have hdig : -8 ≤ dig ∧ dig ≤ 8 := by simpa [raises] using h
    cases (if_pos hdig).symm.trans ht
    exact ⟨rfl, rfl⟩
  | smulb pd =>
    have htop : ¬ scalarTopBit s = true := by simpa [raises] using h
    cases (if_neg htop).symm.trans ht
    exact ⟨rfl, rfl⟩
  | fsqrtr | fcmov | pcmov | pdec =>
    cases ht
    split <;> exact ⟨rfl, rfl⟩
  | _ =>
    cases ht
    exact ⟨rfl, rfl⟩

/-- What a command raises depends on the form tags and bit 255 of DATA only. -/
theorem raises_congr (i : Instr) (hform : ∀ r : PReg, (s.p[r]).form = (u.p[r]).form)
    (hbit : s.data.getLsbD 255 = u.data.getLsbD 255) : raises s i = raises u i := by
  have hp2p3 (r : PReg) : isP2orP3 (s.getP r) = isP2orP3 (u.getP r) := by
    simp only [isP2orP3, State.getP, hform]
  have hp1p1p3 (r : PReg) : isP1P1orP3 (s.getP r) = isP1P1orP3 (u.getP r) := by
    simp only [isP1P1orP3, State.getP, hform]
  have hone (g : Form) (r : PReg) : hasForm g (s.getP r) = hasForm g (u.getP r) := by
    simp only [hasForm, State.getP, hform]
  have htop : scalarTopBit s = scalarTopBit u := hbit
  cases i with
  | pdbl | penc => simp only [raises, hp2p3]
  | ptop2 => simp only [raises, hp1p1p3]
  | padd | pmadd | ptop3 | ptocached => simp only [raises, hone]
  | smulb => simp only [raises, htop]
  | _ => rfl

/-- Settles O16: the error is `raises`, which sees the same forms and the same bit in both states. -/
theorem errorsDoNotDependOnValues : Obligations.ErrorsDoNotDependOnValues := by
  intro i s u t v hform hbit herr hcode ht hv
  have hsame : raises s i = raises u i := raises_congr i hform hbit
  cases hs : raises s i with
  | none =>
    obtain ⟨hterr, htcode⟩ := exec_status_of_not_raises hs ht
    obtain ⟨hverr, hvcode⟩ := exec_status_of_not_raises (hsame.symm.trans hs) hv
    exact ⟨(hterr.trans herr).trans hverr.symm, (htcode.trans hcode).trans hvcode.symm⟩
  | some c =>
    cases (exec_of_raises hs).symm.trans ht
    cases (exec_of_raises (hsame.symm.trans hs)).symm.trans hv
    exact ⟨rfl, rfl⟩

/-! ## The accepted forms (41_group.md R141) -/

theorem isP2orP3_iff : isP2orP3 a = true ↔ a.form = .P2 ∨ a.form = .P3 := by simp [isP2orP3]

theorem isP1P1orP3_iff : isP1P1orP3 a = true ↔ a.form = .P1P1 ∨ a.form = .P3 := by
  simp [isP1P1orP3]

theorem hasForm_iff {g : Form} : hasForm g a = true ↔ a.form = g := by simp [hasForm]

/-- A form check raises E_FORM exactly when it fails. -/
theorem formError_eq_form : formError accepted = some .form ↔ ¬ accepted = true := by
  cases accepted <;> simp [formError]

theorem raises_pdbl (pd : PReg) :
    raises s (.pdbl pd pa) = some .form ↔ ¬((s.p[pa]).form = .P2 ∨ (s.p[pa]).form = .P3) :=
  formError_eq_form.trans (not_congr isP2orP3_iff)

theorem raises_penc :
    raises s (.penc pa) = some .form ↔ ¬((s.p[pa]).form = .P2 ∨ (s.p[pa]).form = .P3) :=
  formError_eq_form.trans (not_congr isP2orP3_iff)

theorem raises_pmadd (pd : PReg) :
    raises s (.pmadd pd pa pb) = some .form ↔ (s.p[pa]).form ≠ .P3 ∨ (s.p[pb]).form ≠ .PRECOMP := by
  refine formError_eq_form.trans ?_
  rw [Bool.and_eq_true, hasForm_iff, hasForm_iff, not_and_or]
  rfl

theorem raises_padd (pd : PReg) :
    raises s (.padd pd pa pb) = some .form ↔ (s.p[pa]).form ≠ .P3 ∨ (s.p[pb]).form ≠ .CACHED := by
  refine formError_eq_form.trans ?_
  rw [Bool.and_eq_true, hasForm_iff, hasForm_iff, not_and_or]
  rfl

theorem raises_ptop2 (pd : PReg) :
    raises s (.ptop2 pd pa) = some .form ↔ ¬((s.p[pa]).form = .P1P1 ∨ (s.p[pa]).form = .P3) :=
  formError_eq_form.trans (not_congr isP1P1orP3_iff)

theorem raises_ptop3 (pd : PReg) :
    raises s (.ptop3 pd pa) = some .form ↔ (s.p[pa]).form ≠ .P1P1 :=
  formError_eq_form.trans (not_congr hasForm_iff)

theorem raises_ptocached (pd : PReg) :
    raises s (.ptocached pd pa) = some .form ↔ (s.p[pa]).form ≠ .P3 :=
  formError_eq_form.trans (not_congr hasForm_iff)

/-- Settles O48: each refused command by its row of the forms, the others by `raises` being none. -/
theorem wrongFormsRaiseForm : Obligations.WrongFormsRaiseForm := by
  intro pd pa pb fd fa c g m s
  refine ⟨fun h => ?p2OrP3, fun h => exec_of_raises ((raises_pmadd pd).mpr h),
    fun h => exec_of_raises ((raises_padd pd).mpr h), fun h => ?p1p1OrP3,
    fun h => exec_of_raises ((raises_ptop3 pd).mpr h),
    fun h => exec_of_raises ((raises_ptocached pd).mpr h), fun i hi => ?unchecked⟩
  case p2OrP3 =>
    have hform : ¬((s.p[pa]).form = .P2 ∨ (s.p[pa]).form = .P3) := by
      simpa only [List.mem_cons, List.not_mem_nil, or_false] using h
    exact ⟨exec_of_raises ((raises_pdbl pd).mpr hform), exec_of_raises (raises_penc.mpr hform)⟩
  case p1p1OrP3 =>
    have hform : ¬((s.p[pa]).form = .P1P1 ∨ (s.p[pa]).form = .P3) := by
      simpa only [List.mem_cons, List.not_mem_nil, or_false] using h
    exact exec_of_raises ((raises_ptop2 pd).mpr hform)
  case unchecked =>
    have hnone : raises s i = none := by
      fin_cases hi <;> rfl
    obtain ⟨t, ht, -⟩ := exec_effect i s
    exact ⟨t, ht, exec_status_of_not_raises hnone ht⟩

/-! ## The commands on accepted forms -/

theorem exec_pdbl (pd : PReg) (h : (s.p[pa]).form = .P2 ∨ (s.p[pa]).form = .P3) :
    exec (.pdbl pd pa) s = .next (s.setP pd (dbl s.p[pa])) :=
  if_pos (isP2orP3_iff.mpr h)

theorem exec_pmadd (pd : PReg) (ha : (s.p[pa]).form = .P3) (hb : (s.p[pb]).form = .PRECOMP) :
    exec (.pmadd pd pa pb) s = .next (s.setP pd (mAdd s.p[pa] s.p[pb])) :=
  if_pos (Bool.and_eq_true_iff.mpr ⟨hasForm_iff.mpr ha, hasForm_iff.mpr hb⟩)

theorem exec_padd (pd : PReg) (ha : (s.p[pa]).form = .P3) (hb : (s.p[pb]).form = .CACHED) :
    exec (.padd pd pa pb) s = .next (s.setP pd (pAdd s.p[pa] s.p[pb])) :=
  if_pos (Bool.and_eq_true_iff.mpr ⟨hasForm_iff.mpr ha, hasForm_iff.mpr hb⟩)

theorem exec_ptop2 (pd : PReg) (h : (s.p[pa]).form = .P1P1 ∨ (s.p[pa]).form = .P3) :
    exec (.ptop2 pd pa) s = .next (s.setP pd (toP2 s.p[pa])) :=
  if_pos (isP1P1orP3_iff.mpr h)

theorem exec_ptop3 (pd : PReg) (h : (s.p[pa]).form = .P1P1) :
    exec (.ptop3 pd pa) s = .next (s.setP pd (toP3 s.p[pa])) :=
  if_pos (hasForm_iff.mpr h)

theorem exec_ptocached (pd : PReg) (h : (s.p[pa]).form = .P3) :
    exec (.ptocached pd pa) s = .next (s.setP pd (toCached s.p[pa])) :=
  if_pos (hasForm_iff.mpr h)

theorem exec_penc (h : (s.p[pa]).form = .P2 ∨ (s.p[pa]).form = .P3) :
    exec (.penc pa) s = .next (s.setData (encodePoint s.p[pa])) :=
  if_pos (isP2orP3_iff.mpr h)

/-- The register written holds the value written. -/
theorem State.setP_getElem_self (s : State) (r : PReg) (v : PointReg) : (s.setP r v).p[r] = v :=
  s.getP_setP_self r v

end Sys2Proof.Machine
end

section
/-! PROOFS. The family 41_group, the group law (41_group.md R143, R148): the curve's neutral element and
inverses, and what the general addition and the conversions make of valid registers. -/

namespace Sys2Proof.Machine

/-! ## Neutral element and inverses -/

section
variable {K : Type} [Field K] {d : K} {p : K × K}

theorem edwardsAdd_comm (d : K) (p q : K × K) : edwardsAdd d p q = edwardsAdd d q p := by
  rw [edwardsAdd, edwardsAdd, edwardsCross_comm]
  congr 2 <;> ring

/-- The curve's equation has x in its square only. -/
theorem edwardsOn_neg (hp : edwardsOn d p) : edwardsOn d (-p.1, p.2) := by
  rw [edwardsOn, neg_sq]
  exact hp

/-- The sum with (-x, y): its denominator 1 + d x^2 y^2 is the numerator y^2 - x^2 by the curve's
equation. -/
theorem edwardsAdd_neg (hd : EdwardsComplete d) (hp : edwardsOn d p) :
    edwardsAdd d p (-p.1, p.2) = (0, 1) := by
  have hF := one_sub_edwardsCross_ne_zero hd hp (edwardsOn_neg hp)
  refine Prod.ext ?x ((div_eq_one_iff_eq hF).mpr ?y)
  case x =>
    rw [edwardsAdd, mul_comm p.2, ← add_mul, add_neg_cancel, zero_mul, zero_div]
  case y =>
    simp only [edwardsOn, edwardsCross] at hp ⊢
    linear_combination hp

end

theorem Affine.add_comm (a b : Affine) : a.add b = b.add a := by
  have := prime_fact
  refine Affine.eq_of_cast_eq (Affine.add_canonical _ _) (Affine.add_canonical _ _) ?_
  rw [Affine.cast_add, Affine.cast_add, edwardsAdd_comm]

theorem Affine.cast_cross [Fact (Nat.Prime prime)] (a b : Affine) :
    ((a.cross b : Nat) : ZMod prime) = edwardsCross ((constD : Nat) : ZMod prime) a.cast b.cast := by
  simp only [Affine.cross, edwardsCross, Affine.cast, cast_fmul]

theorem Affine.cast_neg (a : Affine) : a.neg.cast = (-a.cast.1, a.cast.2) := by
  rw [Affine.cast, Affine.neg, cast_fneg, Affine.cast]

theorem Affine.neg_onCurve {a : Affine} (ha : a.onCurve) : a.neg.onCurve := by
  have := prime_fact
  obtain ⟨⟨-, hy⟩, ha⟩ := a.onCurve_iff.mp ha
  rw [Affine.onCurve_iff, Affine.cast_neg]
  exact ⟨⟨fneg_lt _, hy⟩, edwardsOn_neg ha⟩

theorem Affine.add_neg {a : Affine} (ha : a.onCurve) : a.add a.neg = .zero := by
  have := prime_fact
  obtain ⟨-, ha⟩ := a.onCurve_iff.mp ha
  refine Affine.eq_of_cast_eq (Affine.add_canonical _ _) ⟨prime_pos, one_lt_prime⟩ ?_
  rw [Affine.cast_add, Affine.cast_neg, edwardsAdd_neg edwardsComplete_constD ha]
  simp [Affine.cast, Affine.zero]

/-- Settles O52: the denominators over the field, closure, and the laws of the addition. -/
theorem curveAdditionIsComplete : Obligations.CurveAdditionIsComplete := by
  intro a b ha hb
  have := prime_fact
  obtain ⟨hcan, haE⟩ := a.onCurve_iff.mp ha
  obtain ⟨-, hbE⟩ := b.onCurve_iff.mp hb
  refine ⟨ne_zero_of_cast ?plus, ne_zero_of_cast ?minus, Affine.add_onCurve ha hb, ?zeroLeft,
    Affine.add_zero hcan, Affine.add_neg ha⟩
  case plus =>
    rw [cast_fadd, Affine.cast_cross, Nat.cast_one]
    exact one_add_edwardsCross_ne_zero edwardsComplete_constD haE hbE
  case minus =>
    rw [cast_fsub, Affine.cast_cross, Nat.cast_one]
    exact one_sub_edwardsCross_ne_zero edwardsComplete_constD haE hbE
  case zeroLeft => rw [Affine.add_comm, Affine.add_zero hcan]

/-! ## Cached operands and conversions -/

/-- A CACHED register holds (y + x) Z, (y - x) Z, Z and 2 d x y Z (41_group.md R142). -/
theorem PointReg.valid_cached {a : PointReg} (ha : a.valid) (hf : a.form = .CACHED) :
    a.aff.onCurve ∧ (a.c2 : ZMod prime) ≠ 0 ∧
      (a.c0 : ZMod prime) = (a.aff.y + a.aff.x) * a.c2 ∧
      (a.c1 : ZMod prime) = (a.aff.y - a.aff.x) * a.c2 ∧
      (a.c3 : ZMod prime) = 2 * (constD : Nat) * (a.aff.x * a.aff.y) * a.c2 := by
  have := prime_fact
  have h2 := edwardsComplete_constD.two_ne_zero
  obtain ⟨form, c0, c1, c2, c3⟩ := a
  obtain rfl : form = .CACHED := hf
  obtain ⟨⟨-, -, hlt, -⟩, hne, hon, hT⟩ := ha
  have hz := cast_ne_zero hlt hne
  have hT := congrArg (Nat.cast (R := ZMod prime)) hT
  simp only [cast_fmul, cast_fsub, cast_fadd, cast_finv, cast_constD2, Nat.cast_ofNat] at hT
  refine ⟨hon, hz, ?y_plus_x, ?y_minus_x, mul_left_cancel₀ hz ?two_d_xy⟩
  all_goals
    simp only [PointReg.aff, cast_fmul, cast_fsub, cast_fadd, cast_finv, Nat.cast_ofNat]
  case y_plus_x | y_minus_x =>
    field_simp
    ring
  case two_d_xy =>
    rw [← hT]
    field_simp

/-- General addition (41_group.md R147, R148). -/
theorem pAdd_valid_aff {a b : PointReg} (ha : a.valid) (hfa : a.form = .P3) (hb : b.valid)
    (hfb : b.form = .CACHED) : (pAdd a b).valid ∧ (pAdd a b).aff = a.aff.add b.aff := by
  have := prime_fact
  obtain ⟨hona, hza, hx, hy⟩ := PointReg.valid_projective ha (.inr hfa)
  have ht := PointReg.valid_T ha hfa
  obtain ⟨honb, hzb, h0, h1, h3⟩ := PointReg.valid_cached hb hfb
  refine PointReg.represents_add (k := 2 * ((a.c2 : ZMod prime) * b.c2)) rfl (pAdd_canonical a b)
    hona honb (mul_ne_zero edwardsComplete_constD.two_ne_zero (mul_ne_zero hza hzb)) ?_ ?_ ?_ ?_
  all_goals
    simp only [pAdd, cast_fsub, cast_fadd, cast_fmul, hx, hy, ht, h0, h1, h3]
    ring

/-- Conversion to P2 drops T, of a P3 register's or of the P3 form of a P1P1 register
(41_group.md R149). -/
theorem toP2_valid_aff {a : PointReg} (ha : a.valid) (hf : a.form = .P1P1 ∨ a.form = .P3) :
    (toP2 a).valid ∧ (toP2 a).aff = a.aff := by
  obtain ⟨form, X, Y, Z, T⟩ := a
  obtain rfl | rfl := hf
  · obtain ⟨⟨hcan, hz, hon, -⟩, haff⟩ := toP3_valid_aff ha rfl
    exact ⟨⟨toP2_canonical ha.1, hz, hon⟩, haff⟩
  · obtain ⟨hcan, hz, hon, -⟩ := ha
    exact ⟨⟨toP2_canonical hcan, hz, hon⟩, rfl⟩

/-- Half the difference and half the sum of y + x and y - x are x and y. -/
theorem halves_of_sum_and_difference {x y : Nat} (hx : x < prime) (hy : y < prime) :
    fmul (fsub (fadd y x) (fsub y x)) (finv 2) = x ∧
      fmul (fadd (fadd y x) (fsub y x)) (finv 2) = y := by
  have := prime_fact
  have h2 := edwardsComplete_constD.two_ne_zero
  refine ⟨eq_of_cast_eq (fmul_lt _ _) hx ?_, eq_of_cast_eq (fmul_lt _ _) hy ?_⟩
  all_goals
    simp only [cast_fmul, cast_fsub, cast_fadd, cast_finv, Nat.cast_ofNat]
    field_simp
    ring

/-- Conversion to CACHED (41_group.md R151). -/
theorem toCached_valid_aff {a : PointReg} (ha : a.valid) (hf : a.form = .P3) :
    (toCached a).valid ∧ (toCached a).aff = a.aff := by
  obtain ⟨form, X, Y, Z, T⟩ := a
  obtain rfl : form = .P3 := hf
  obtain ⟨⟨hXlt, hYlt, hlt⟩, hz, hon, hT⟩ := ha
  obtain ⟨hX, hY⟩ := halves_of_sum_and_difference hXlt hYlt
  have haff : (toCached ⟨.P3, X, Y, Z, T⟩).aff = (PointReg.mk .P3 X Y Z T).aff := by
    simp only [toCached, PointReg.aff, hX, hY]
  have hon' : (toCached ⟨.P3, X, Y, Z, T⟩).aff.onCurve := by rw [haff]; exact hon
  refine ⟨⟨toCached_canonical ⟨hXlt, hYlt, hlt⟩, hz, hon', ?_⟩, haff⟩
  simp only [toCached, hX, hY] at hT ⊢
  rw [hT, fmul_comm, fmul_assoc]

/-- Settles O53: the three sums are those of the arithmetic on valid records. -/
theorem pointCommandsFollowGroupLaw : Obligations.PointCommandsFollowGroupLaw := by
  intro pd pa pb s ha
  refine ⟨fun hf => ⟨_, exec_pdbl pd hf, ?_⟩, fun hb hfa hfb => ⟨_, exec_pmadd pd hfa hfb, ?_⟩,
    fun hb hfa hfb => ⟨_, exec_padd pd hfa hfb, ?_⟩⟩
  all_goals rw [State.setP_getElem_self]
  · exact ⟨rfl, dbl_valid_aff ha hf⟩
  · exact ⟨rfl, mAdd_valid_aff ha hfa hb hfb⟩
  · exact ⟨rfl, pAdd_valid_aff ha hfa hb hfb⟩

end Sys2Proof.Machine
end

section
/-! PROOFS. The family 41_group, what each command writes (41_group.md R145 to R165): the residues of the
formulas over the integers, and the data movement. -/

namespace Sys2Proof.Machine

/-- A canonical value is the residue of every integer it equals in the field. -/
theorem eq_emod_toNat {n : Nat} {z : Int} (hn : n < prime) (h : (n : ZMod prime) = (z : ZMod prime)) :
    n = (z % prime).toNat :=
  eq_of_cast_eq hn (emod_toNat_lt z) (h.trans (cast_emod_toNat z).symm)

/-- The components of a doubling (41_group.md R145). -/
theorem dbl_eq (a : PointReg) {X Y Z : Int} (hX : X = a.c0) (hY : Y = a.c1) (hZ : Z = a.c2) :
    dbl a = ⟨.P1P1, ((2 * X * Y) % prime).toNat, ((Y ^ 2 + X ^ 2) % prime).toNat,
      ((Y ^ 2 - X ^ 2) % prime).toNat, ((2 * Z ^ 2 - (Y ^ 2 - X ^ 2)) % prime).toNat⟩ := by
  subst hX hY hZ
  rw [dbl, PointReg.mk.injEq]
  refine ⟨rfl, eq_emod_toNat (fsub_lt _ _) ?_, eq_emod_toNat (fadd_lt _ _) ?_,
    eq_emod_toNat (fsub_lt _ _) ?_, eq_emod_toNat (fsub_lt _ _) ?_⟩
  all_goals
    simp only [cast_fsub, cast_fadd, cast_fmul, cast_fsq]
    push_cast
    ring

/-- The completed form of a sum: the differences and sums of a and b, and of d and c, as integers
(41_group.md R146, R147). -/
theorem completedSum_eq {a b c d : Nat} {a' b' c' d' : Int} (ha : (a : ZMod prime) = a')
    (hb : (b : ZMod prime) = b') (hc : (c : ZMod prime) = c') (hd : (d : ZMod prime) = d') :
    PointReg.mk .P1P1 (fsub a b) (fadd a b) (fadd d c) (fsub d c) =
      ⟨.P1P1, ((a' - b') % prime).toNat, ((a' + b') % prime).toNat, ((d' + c') % prime).toNat,
        ((d' - c') % prime).toNat⟩ := by
  rw [PointReg.mk.injEq]
  refine ⟨rfl, eq_emod_toNat (fsub_lt _ _) ?_, eq_emod_toNat (fadd_lt _ _) ?_,
    eq_emod_toNat (fadd_lt _ _) ?_, eq_emod_toNat (fsub_lt _ _) ?_⟩
  all_goals
    simp only [cast_fsub, cast_fadd, Int.cast_sub, Int.cast_add, ha, hb, hc, hd]

/-- The components of a mixed addition (41_group.md R146). -/
theorem mAdd_eq (a b : PointReg) {X Y Z T y0 y1 y2 : Int} (hX : X = a.c0) (hY : Y = a.c1)
    (hZ : Z = a.c2) (hT : T = a.c3) (h0 : y0 = b.c0) (h1 : y1 = b.c1) (h2 : y2 = b.c2) :
    mAdd a b = ⟨.P1P1, (((Y + X) * y0 - (Y - X) * y1) % prime).toNat,
      (((Y + X) * y0 + (Y - X) * y1) % prime).toNat, ((2 * Z + y2 * T) % prime).toNat,
      ((2 * Z - y2 * T) % prime).toNat⟩ := by
  subst hX hY hZ hT h0 h1 h2
  refine completedSum_eq ?_ ?_ ?_ ?_
  all_goals
    simp only [cast_fsub, cast_fadd, cast_fmul]
    push_cast
    ring

/-- The components of a general addition (41_group.md R147). -/
theorem pAdd_eq (a b : PointReg) {X Y Z T y0 y1 y2 y3 : Int} (hX : X = a.c0) (hY : Y = a.c1)
    (hZ : Z = a.c2) (hT : T = a.c3) (h0 : y0 = b.c0) (h1 : y1 = b.c1) (h2 : y2 = b.c2)
    (h3 : y3 = b.c3) :
    pAdd a b = ⟨.P1P1, (((Y + X) * y0 - (Y - X) * y1) % prime).toNat,
      (((Y + X) * y0 + (Y - X) * y1) % prime).toNat, ((2 * (Z * y2) + y3 * T) % prime).toNat,
      ((2 * (Z * y2) - y3 * T) % prime).toNat⟩ := by
  subst hX hY hZ hT h0 h1 h2 h3
  refine completedSum_eq ?_ ?_ ?_ ?_
  all_goals
    simp only [cast_fsub, cast_fadd, cast_fmul]
    push_cast
    ring

/-- Settles O43: the doubling's residues on an accepted form, E_FORM on any other. -/
theorem pdblComputesDoubling : Obligations.PdblComputesDoubling := by
  intro pd pa s X Y Z hX hY hZ
  refine ⟨fun hf => ?_, fun h2 h3 => exec_of_raises ((raises_pdbl pd).mpr (not_or.mpr ⟨h2, h3⟩))⟩
  rw [exec_pdbl pd hf, dbl_eq _ hX hY hZ]
  rfl

/-- Settles O44: the residues of the two additions on accepted forms, E_FORM on any other. -/
theorem additionCommandsCompute : Obligations.AdditionCommandsCompute := by
  intro pd pa pb s X Y Z T y0 y1 y2 y3 hX hY hZ hT h0 h1 h2 h3
  refine ⟨fun ha hb => ?mixed, fun ha hb => ?general,
    fun h => exec_of_raises ((raises_pmadd pd).mpr h),
    fun h => exec_of_raises ((raises_padd pd).mpr h)⟩
  case mixed =>
    rw [exec_pmadd pd ha hb, mAdd_eq _ _ hX hY hZ hT h0 h1 h2]
    rfl
  case general =>
    rw [exec_padd pd ha hb, pAdd_eq _ _ hX hY hZ hT h0 h1 h2 h3]
    rfl

/-! ## Conversions -/

/-- PTOP2 of a P1P1 register multiplies out (41_group.md R149). -/
theorem toP2_of_P1P1 {a : PointReg} (hf : a.form = .P1P1) :
    toP2 a = ⟨.P2, a.c0 * a.c3 % prime, a.c1 * a.c2 % prime, a.c2 * a.c3 % prime, 0⟩ :=
  if_pos hf

/-- PTOP2 of a P3 register drops T (41_group.md R149). -/
theorem toP2_of_P3 {a : PointReg} (hf : a.form = .P3) : toP2 a = ⟨.P2, a.c0, a.c1, a.c2, 0⟩ :=
  if_neg (by simp [hf])

/-- The record PTOP3 writes satisfies X'Y' = Z'T' (41_group.md R150). -/
theorem toP3_extended (a : PointReg) :
    fmul (toP3 a).c0 (toP3 a).c1 = fmul (toP3 a).c2 (toP3 a).c3 := by
  refine eq_of_cast_eq (fmul_lt _ _) (fmul_lt _ _) ?_
  simp only [toP3, cast_fmul]
  ring

/-- Settles O45: the conversions' components, their refusals, and what they make of valid
registers. -/
theorem conversionCommandsCompute : Obligations.ConversionCommandsCompute := by
  intro pd pa s a ha
  subst ha
  refine ⟨fun hf => ⟨?p1p1ToP2, toP3 s.p[pa], exec_ptop3 pd hf, rfl, toP3_extended _⟩,
    fun hf => ⟨?p3ToP2, exec_ptocached pd hf⟩,
    fun h1 h3 => exec_of_raises ((raises_ptop2 pd).mpr (not_or.mpr ⟨h1, h3⟩)),
    fun h => exec_of_raises ((raises_ptop3 pd).mpr h),
    fun h => exec_of_raises ((raises_ptocached pd).mpr h),
    fun hv => ⟨fun hf => ⟨_, exec_ptop2 pd hf, ?_⟩, fun hf => ⟨_, exec_ptop3 pd hf, ?_⟩,
      fun hf => ⟨_, exec_ptocached pd hf, ?_⟩⟩⟩
  case p1p1ToP2 =>
    rw [exec_ptop2 pd (.inl hf), toP2_of_P1P1 hf]
    rfl
  case p3ToP2 =>
    rw [exec_ptop2 pd (.inr hf), toP2_of_P3 hf]
    rfl
  all_goals rw [State.setP_getElem_self]
  · exact toP2_valid_aff hv hf
  · exact toP3_valid_aff hv hf
  · exact toCached_valid_aff hv hf

/-! ## Data movement -/

/-- Settles O42, PCMOV by the value of CF. -/
theorem pointDataMovementCompletes : Obligations.PointDataMovementCompletes := by
  intro pd pa fd fa g s
  refine ⟨rfl, rfl, rfl, rfl, rfl, rfl, rfl, rfl, rfl, rfl, rfl, fun h => ?copies, fun h => ?keeps⟩
  case copies => exact congrArg Host.Outcome.next (if_pos h)
  case keeps => exact congrArg Host.Outcome.next (if_neg (by simp [h]))

end Sys2Proof.Machine
end

section
/-! PROOFS. The family 41_group, encoding and decoding (41_group.md R153 to R157): the bits PENC writes,
the curve's equation as the ratio whose root PDEC takes, the sign of the root, and the round trip. -/

namespace Sys2Proof.Machine

variable {x y r : Nat} {mode : DecodeMode} {b : Buffer} {s : State} {a : PointReg}

/-! ## Encoding -/

/-- The integer PENC writes: y, and the parity of x in bit 255 (41_group.md R153). -/
theorem encodePoint_toNat (a : PointReg) :
    (encodePoint a).toNat =
      fmul a.c1 (finv a.c2) + fmul a.c0 (finv a.c2) % 2 * 2 ^ 255 := by
  have hy : fmul a.c1 (finv a.c2) < 2 ^ 255 := (fmul_lt _ _).trans prime_lt_two_pow
  have hsign (x : Nat) : (BitVec.ofBool (isneg x)).toNat = x % 2 := by
    obtain h | h := Nat.mod_two_eq_zero_or_one x <;> simp [isneg, h]
  rw [encodePoint, BitVec.toNat_append, BitVec.toNat_ofNat, Nat.mod_eq_of_lt hy, hsign,
    ← Nat.shiftLeft_add_eq_or_of_lt hy, Nat.shiftLeft_eq, Nat.add_comm]

/-- The y PDEC reads from what PENC wrote. -/
theorem fromBytes_encodePoint (a : PointReg) :
    fromBytes (encodePoint a) = fmul a.c1 (finv a.c2) := by
  have hy : fmul a.c1 (finv a.c2) < prime := fmul_lt _ _
  rw [fromBytes, encodePoint_toNat, Nat.add_mul_mod_self_right,
    Nat.mod_eq_of_lt (hy.trans prime_lt_two_pow), Nat.mod_eq_of_lt hy]

/-- The sign bit PDEC reads from what PENC wrote. -/
theorem encodePoint_topBit (a : PointReg) :
    (encodePoint a).getLsbD 255 = isneg (fmul a.c0 (finv a.c2)) := by
  rw [encodePoint, BitVec.getLsbD_append]
  simp

/-- With Z = 0 the encoding is 0: the inverse of 0 is 0 (41_group.md R153). -/
theorem encodePoint_of_Z_zero (h : a.c2 = 0) : (encodePoint a).toNat = 0 := by
  have hzero (n : Nat) : fmul n 0 = 0 := by rw [fmul, Nat.mul_zero, Nat.zero_mod]
  rw [encodePoint_toNat, h, finv_zero, hzero, hzero, Nat.zero_mod, Nat.zero_mul]

/-- Settles O46: the integer written, with the inverse as the power it is. -/
theorem pencEncodes : Obligations.PencEncodes := by
  intro pa s r x y hr hx hy
  refine ⟨fun hf => ⟨encodePoint s.p[pa], exec_penc hf, ?integer, encodePoint_of_Z_zero⟩,
    fun h2 h3 => exec_of_raises (raises_penc.mpr (not_or.mpr ⟨h2, h3⟩))⟩
  case integer =>
    rw [hx, hy, hr, ← finv_eq_pow]
    exact encodePoint_toNat _

/-! ## The curve's equation solved for x -/

/-- u = y^2 - 1 (41_group.md R155). -/
def decodeNum (y : Nat) : Nat := fsub (fsq y) 1

/-- v = d y^2 + 1 (41_group.md R155). -/
def decodeDen (y : Nat) : Nat := fadd (fmul constD (fsq y)) 1

/-- d y^2 + 1 never vanishes: -1 is a square, and d is none. -/
theorem decodeDen_ne_zero (y : Nat) : decodeDen y ≠ 0 := by
  have := prime_fact
  refine ne_zero_of_cast fun h => ?_
  rw [decodeDen, cast_fadd, cast_fmul, cast_fsq, Nat.cast_one] at h
  obtain ⟨i, hi⟩ := edwardsComplete_constD.minusOne_square
  have hy : (y : ZMod prime) = 0 :=
    edwardsComplete_constD.eq_zero_of_sq_eq (v := i) (by linear_combination -h - hi)
  simp [hy] at h

/-- A point is on the curve when its x^2 is the ratio u / v (41_group.md R157). -/
theorem onCurve_iff_ratio :
    Affine.onCurve ⟨x, y⟩ ↔ x < prime ∧ y < prime ∧ fmul (decodeDen y) (fsq x) = decodeNum y := by
  refine and_congr_right fun _ => and_congr_right fun _ => ?_
  rw [decodeNum, eq_iff_cast_eq (fsub_lt _ _) (fadd_lt _ _),
    eq_iff_cast_eq (fmul_lt _ _) (fsub_lt _ _)]
  simp only [decodeDen, cast_fsub, cast_fadd, cast_fmul, cast_fsq, Nat.cast_one]
  constructor <;>
  · intro h
    linear_combination -h

/-- A root found is the x of a point of the curve. -/
theorem onCurve_of_sqrtRatio (hy : y < prime) (h : sqrtRatio (decodeNum y) (decodeDen y) = some r) :
    Affine.onCurve ⟨r, y⟩ :=
  onCurve_iff_ratio.mpr ⟨sqrtRatio_lt h, hy, fmul_fsq_of_sqrtRatio (fsub_lt _ _) h⟩

/-- A y on the curve has its root found. -/
theorem exists_sqrtRatio_of_onCurve (h : Affine.onCurve ⟨x, y⟩) :
    ∃ r, sqrtRatio (decodeNum y) (decodeDen y) = some r := by
  obtain ⟨-, -, hratio⟩ := onCurve_iff_ratio.mp h
  rw [fmul_fsq_eq] at hratio
  exact exists_sqrtRatio (fsub_lt _ _) (fadd_lt _ _) (decodeDen_ne_zero y) hratio.symm

/-- Two points of the curve with one y differ in the sign of x at most. -/
theorem eq_or_eq_fneg_of_onCurve (hx : Affine.onCurve ⟨x, y⟩) (hr : Affine.onCurve ⟨r, y⟩) :
    r = x ∨ r = fneg x := by
  have := prime_fact
  obtain ⟨hxlt, -, hxratio⟩ := onCurve_iff_ratio.mp hx
  obtain ⟨hrlt, -, hrratio⟩ := onCurve_iff_ratio.mp hr
  have hsq := congrArg (Nat.cast (R := ZMod prime)) (hrratio.trans hxratio.symm)
  rw [cast_fmul, cast_fmul, cast_fsq, cast_fsq] at hsq
  have hv := cast_ne_zero (fadd_lt _ _) (decodeDen_ne_zero y)
  obtain h | h := sq_eq_sq_iff_eq_or_eq_neg.mp (mul_left_cancel₀ hv hsq)
  · exact .inl (eq_of_cast_eq hrlt hxlt h)
  · exact .inr (eq_of_cast_eq hrlt (fneg_lt _) (h.trans (cast_fneg x).symm))

/-! ## The sign of the root -/

theorem fneg_fneg (hx : x < prime) : fneg (fneg x) = x :=
  eq_of_cast_eq (fneg_lt _) hx (by rw [cast_fneg, cast_fneg, neg_neg])

theorem fneg_zero : fneg 0 = 0 := by decide

/-- p is odd, so negation changes the parity of all but 0 (41_group.md R155). -/
theorem isneg_fneg (hx : x < prime) (h0 : x ≠ 0) : isneg (fneg x) = !isneg x := by
  have hneg : fneg x = prime - x := by
    refine eq_of_cast_eq (fneg_lt _) (by omega) ?_
    rw [cast_fneg, Nat.cast_sub hx.le, ZMod.natCast_self, zero_sub]
  have hodd := prime_odd
  rw [hneg, isneg, isneg, Bool.eq_iff_iff, Bool.not_eq_true', beq_iff_eq, beq_eq_false_iff_ne]
  omega

/-- The root kept in mode 0 has the sign asked for, when there are two. -/
theorem isneg_chooseSign {sign : Bool} (hr : r < prime) (h : chooseSign .plain sign r ≠ 0) :
    isneg (chooseSign .plain sign r) = sign := by
  rw [chooseSign] at h ⊢
  by_cases hsign : isneg r = sign
  · simp [hsign]
  · have hne : (isneg r != sign) = true := by simpa using hsign
    rw [if_pos hne] at h ⊢
    have h0 : r ≠ 0 := by
      rintro rfl
      exact h fneg_zero
    rw [isneg_fneg hr h0]
    exact Bool.not_eq.mpr hsign

/-- Mode 1 keeps the negation of what mode 0 keeps. -/
theorem chooseSign_negated (sign : Bool) (hr : r < prime) :
    chooseSign .negated sign r = fneg (chooseSign .plain sign r) := by
  by_cases hsign : isneg r = sign <;> simp [chooseSign, hsign, fneg_fneg hr]

/-- Of two roots, mode 0 keeps the one whose sign is given. -/
theorem chooseSign_isneg (hx : x < prime) (h : r = x ∨ r = fneg x) :
    chooseSign .plain (isneg x) r = x := by
  by_cases hrx : r = x
  · simp [chooseSign, hrx]
  · obtain rfl : r = fneg x := h.resolve_left hrx
    have h0 : x ≠ 0 := by
      rintro rfl
      exact hrx fneg_zero
    simp [chooseSign, isneg_fneg hx h0, fneg_fneg hx]

theorem chooseSign_eq_or (mode : DecodeMode) (sign : Bool) (r : Nat) :
    chooseSign mode sign r = r ∨ chooseSign mode sign r = fneg r := by
  cases mode <;> exact (ite_eq_or_eq _ _ _).symm

/-- The root kept is a residue of the integer R155 names. -/
theorem chooseSign_cast (mode : DecodeMode) (sign : Bool) (hr : r < prime) :
    ((chooseSign mode sign r : Nat) : Int) =
      (if (decide (r % 2 = 1) != sign) = decide (mode = .plain) then -(r : Int) else r) % prime := by
  have hself : (r : Int) % prime = r := Int.emod_eq_of_lt (by omega) (by exact_mod_cast hr)
  have hsign : decide (r % 2 = 1) = isneg r := rfl
  rw [hsign]
  by_cases h : isneg r = sign <;> cases mode <;> simp [chooseSign, h, fneg_cast, hself]

theorem chooseSign_onCurve (mode : DecodeMode) (sign : Bool) (h : Affine.onCurve ⟨r, y⟩) :
    Affine.onCurve ⟨chooseSign mode sign r, y⟩ := by
  obtain hr | hr := chooseSign_eq_or mode sign r
  · rw [hr]
    exact h
  · rw [hr]
    exact Affine.neg_onCurve h

/-! ## PDEC, by whether the root is found -/

theorem exec_pdec_some (pd : PReg) (mode : DecodeMode)
    (h : sqrtRatio (decodeNum (fromBytes s.data)) (decodeDen (fromBytes s.data)) = some r) :
    exec (.pdec pd mode) s =
      .next ((s.setP pd ⟨.P3, chooseSign mode (s.data.getLsbD 255) r, fromBytes s.data, 1,
        fmul (chooseSign mode (s.data.getLsbD 255) r) (fromBytes s.data)⟩).setCF true) := by
  rw [decodeNum, decodeDen] at h
  simp only [exec, execPdec, decodePoint, h]

theorem exec_pdec_none (pd : PReg) (mode : DecodeMode)
    (h : sqrtRatio (decodeNum (fromBytes s.data)) (decodeDen (fromBytes s.data)) = none) :
    exec (.pdec pd mode) s = .next (s.setCF false) := by
  rw [decodeNum, decodeDen] at h
  simp only [exec, execPdec, decodePoint, h]

/-- u and v over the integers (41_group.md R155). -/
theorem decodeNum_cast (y : Nat) : ((decodeNum y : Nat) : Int) = ((y : Int) ^ 2 - 1) % prime := by
  rw [decodeNum, fsub_cast, fsq]
  push_cast
  rw [Int.emod_sub_emod]

theorem decodeDen_eq (y : Nat) : decodeDen y = (constD * y ^ 2 + 1) % prime := by
  simp [decodeDen, fadd, fmul, fsq]

/-- Settles O47: FSQRTR and PDEC take the root of the same ratio. -/
theorem pdecDecodes : Obligations.PdecDecodes := by
  intro pd mode s q t y u v hy hu hv hqu hqv ht
  obtain rfl : y = fromBytes s.data := hy
  obtain rfl : u = decodeNum (fromBytes s.data) :=
    Int.natCast_inj.mp (hu.trans (decodeNum_cast _).symm)
  obtain rfl : v = decodeDen (fromBytes s.data) := hv.trans (decodeDen_eq _).symm
  cases hroot : sqrtRatio q.f[(0 : FReg)] q.f[(1 : FReg)] with
  | none =>
    cases (exec_fsqrtr_none hroot).symm.trans ht
    rw [hqu, hqv] at hroot
    exact ⟨fun _ => exec_pdec_none pd mode hroot, nofun⟩
  | some r =>
    cases (exec_fsqrtr_some hroot).symm.trans ht
    rw [hqu, hqv] at hroot
    have hread : ((q.setF 2 r).setCF true).f[(2 : FReg)] = r := State.getF_setF_self q 2 r
    rw [hread]
    exact ⟨nofun, fun _ => ⟨chooseSign mode (s.data.getLsbD 255) r,
      chooseSign_cast mode _ (sqrtRatio_lt hroot), exec_pdec_some pd mode hroot⟩⟩

/-- Settles O54: a root found puts its y on the curve with either sign, and a y on the curve has its
root found. -/
theorem decodedPointIsOnCurve : Obligations.DecodedPointIsOnCurve := by
  intro pd mode s t ht
  cases hroot : sqrtRatio (decodeNum (fromBytes s.data)) (decodeDen (fromBytes s.data)) with
  | none =>
    cases (exec_pdec_none pd mode hroot).symm.trans ht
    refine ⟨nofun, fun _ x hx => ?_⟩
    obtain ⟨r, hr⟩ := exists_sqrtRatio_of_onCurve (y := fromBytes s.data) hx
    cases hroot.symm.trans hr
  | some r =>
    cases (exec_pdec_some pd mode hroot).symm.trans ht
    rw [State.setCF_p, State.setP_getElem_self]
    refine ⟨fun _ => ⟨chooseSign_onCurve mode _ (onCurve_of_sqrtRatio (fromBytes_lt _) hroot), rfl,
      rfl, rfl, rfl, ?_⟩, nofun⟩
    rintro rfl h0
    exact isneg_chooseSign (sqrtRatio_lt hroot) h0

/-! ## The round trip -/

/-- A P2 or P3 register's affine point. -/
theorem PointReg.aff_of_P2_or_P3 (hf : a.form = .P2 ∨ a.form = .P3) :
    a.aff = ⟨fmul a.c0 (finv a.c2), fmul a.c1 (finv a.c2)⟩ := by
  obtain hf | hf := hf <;> rw [PointReg.aff, hf]

/-- With Z = 1 the components are the coordinates. -/
theorem PointReg.aff_of_Z_one (hx : x < prime) (hy : y < prime) (T : Nat) :
    (PointReg.mk .P3 x y 1 T).aff = ⟨x, y⟩ := by
  rw [PointReg.aff_of_P2_or_P3 (.inr rfl), finv_one, fmul_one hx, fmul_one hy]

/-- PDEC on an encoding of a point of the curve gives the point in mode 0 and its negation in mode 1
(41_group.md R156). -/
theorem exec_pdec_of_encoding (pd : PReg) {q : Affine} (hq : q.onCurve)
    (hy : fromBytes s.data = q.y) (hsign : s.data.getLsbD 255 = isneg q.x) :
    exec (.pdec pd .plain) s =
        .next ((s.setP pd ⟨.P3, q.x, q.y, 1, fmul q.x q.y⟩).setCF true) ∧
      exec (.pdec pd .negated) s =
        .next ((s.setP pd ⟨.P3, fneg q.x, q.y, 1, fmul (fneg q.x) q.y⟩).setCF true) := by
  obtain ⟨r, hr⟩ := exists_sqrtRatio_of_onCurve hq
  have hroot : r = q.x ∨ r = fneg q.x :=
    eq_or_eq_fneg_of_onCurve hq (onCurve_of_sqrtRatio hq.2.1 hr)
  have hplain : chooseSign .plain (isneg q.x) r = q.x := chooseSign_isneg hq.1 hroot
  have hnegated : chooseSign .negated (isneg q.x) r = fneg q.x := by
    rw [chooseSign_negated _ (sqrtRatio_lt hr), hplain]
  rw [← hy] at hr
  refine ⟨(exec_pdec_some pd .plain hr).trans ?_, (exec_pdec_some pd .negated hr).trans ?_⟩
  · rw [hsign, hplain, hy]
  · rw [hsign, hnegated, hy]

/-- Settles O55: PENC writes an encoding of the affine point, and PDEC reads it back; a string is
accepted when a root is found. -/
theorem encodeDecodeRoundTrip : Obligations.EncodeDecodeRoundTrip := by
  refine ⟨fun pd pa s hv hf => ?roundTrip, fun pd mode s t ht => ?accepted⟩
  case roundTrip =>
    obtain ⟨hon, -⟩ := PointReg.valid_projective hv hf.symm
    have haff := PointReg.aff_of_P2_or_P3 hf.symm
    obtain ⟨hplain, hnegated⟩ :=
      exec_pdec_of_encoding (s := s.setData (encodePoint s.p[pa])) pd hon
        (by rw [haff, State.setData_data, fromBytes_encodePoint])
        (by rw [haff, State.setData_data, encodePoint_topBit])
    refine ⟨_, _, _, exec_penc hf.symm, hplain, rfl, ?form, ?aff, ?one, hnegated, rfl, ?negated⟩
    all_goals rw [State.setCF_p, State.setP_getElem_self]
    case aff => exact PointReg.aff_of_Z_one hon.1 hon.2.1 _
    case negated => exact PointReg.aff_of_Z_one (fneg_lt _) hon.2.1 _
  case accepted =>
    cases hroot : sqrtRatio (decodeNum (fromBytes s.data)) (decodeDen (fromBytes s.data)) with
    | none =>
      cases (exec_pdec_none pd mode hroot).symm.trans ht
      exact ⟨nofun, fun _ => rfl⟩
    | some r =>
      cases (exec_pdec_some pd mode hroot).symm.trans ht
      exact ⟨fun _ => ⟨r, onCurve_of_sqrtRatio (fromBytes_lt _) hroot⟩, nofun⟩

end Sys2Proof.Machine
end

section
/-! PROOFS. The family 42_fixed_base, selections: the integer multiples of the base point in the group of
the curve's points (41_group.md R143), and Select as a lookup of them (42_fixed_base.md R184 to R186). -/

namespace Sys2Proof.Machine

/-! ## The group of the curve's points -/

/-- The points of the curve. -/
abbrev CurvePoint := { a : Affine // a.onCurve }

/-- The points of the curve are an abelian group under the model's addition, with the model's own
multiples (41_group.md R143). -/
abbrev curveGroup : AddCommGroup CurvePoint where
  add P Q := ⟨P.val.add Q.val, Affine.add_onCurve P.property Q.property⟩
  zero := ⟨.zero, Affine.zero_onCurve⟩
  neg P := ⟨P.val.neg, Affine.neg_onCurve P.property⟩
  nsmul k P := ⟨P.val.times k, Affine.times_onCurve P.property k⟩
  zsmul
    | .ofNat k, P => ⟨P.val.times k, Affine.times_onCurve P.property k⟩
    | .negSucc k, P =>
      ⟨(P.val.times (k + 1)).neg, Affine.neg_onCurve (Affine.times_onCurve P.property _)⟩
  add_assoc P Q R := Subtype.ext (Affine.add_assoc P.property Q.property R.property)
  add_comm P Q := Subtype.ext (Affine.add_comm P.val Q.val)
  add_zero P := Subtype.ext (Affine.add_zero (Affine.onCurve_canonical P.property))
  zero_add P := Subtype.ext ((Affine.add_comm _ _).trans
    (Affine.add_zero (Affine.onCurve_canonical P.property)))
  neg_add_cancel P := Subtype.ext ((Affine.add_comm _ _).trans (Affine.add_neg P.property))

theorem curveGroup_val_add (P Q : CurvePoint) : (curveGroup.add P Q).val = P.val.add Q.val := rfl

theorem curveGroup_val_neg (P : CurvePoint) : (curveGroup.neg P).val = P.val.neg := rfl

theorem curveGroup_val_nsmul (k : Nat) (P : CurvePoint) :
    (curveGroup.nsmul k P).val = P.val.times k := rfl

/-- The base point in the group. -/
def basePoint : CurvePoint := ⟨.base, Affine.base_onCurve⟩

/-! ## Integer multiples of the base point -/

/-- z B, for an integer z of either sign: the value of a signed digit (42_fixed_base.md R186). -/
def baseTimes (z : Int) : Affine := (curveGroup.zsmul z basePoint).val

theorem baseTimes_natCast (k : Nat) : baseTimes k = Affine.base.times k := rfl

theorem baseTimes_onCurve (z : Int) : (baseTimes z).onCurve :=
  (curveGroup.zsmul z basePoint).property

theorem baseTimes_neg (z : Int) : baseTimes (-z) = (baseTimes z).neg :=
  letI := curveGroup
  (congrArg Subtype.val (neg_zsmul basePoint z)).trans (curveGroup_val_neg _)

theorem baseTimes_add (y z : Int) : baseTimes (y + z) = (baseTimes y).add (baseTimes z) :=
  letI := curveGroup
  (congrArg Subtype.val (add_zsmul basePoint y z)).trans (curveGroup_val_add _ _)

theorem groupOrder_lt : groupOrder < 2 ^ 256 := by decide

/-- L B is the identity (00_scope.md R14): double-and-add is run on L. -/
theorem base_times_groupOrder : Affine.base.times groupOrder = .zero := by
  obtain ⟨-, -, haff⟩ := baseMultiple_valid_aff 256 groupOrder_lt
  exact haff.symm.trans (by decide +kernel)

theorem basePoint_nsmul_groupOrder : curveGroup.nsmul groupOrder basePoint = curveGroup.zero :=
  Subtype.ext ((curveGroup_val_nsmul _ _).trans base_times_groupOrder)

/-- Multiples of B depend on the scalar modulo L only (42_fixed_base.md R189). -/
theorem base_times_mod_groupOrder (k : Nat) :
    Affine.base.times (k % groupOrder) = Affine.base.times k :=
  letI := curveGroup
  (congrArg Subtype.val (nsmul_eq_mod_nsmul k basePoint_nsmul_groupOrder)).symm

/-! ## Selection -/

/-- A visit of the first n entries of a row keeps the one that b counts, if it is among them
(42_fixed_base.md R184). -/
theorem foldl_visit (entry : Nat → PointReg) (t : PointReg) (b n : Nat) :
    (List.range n).foldl (fun t j => if b = j + 1 then entry j else t) t =
      if 0 < b ∧ b ≤ n then entry (b - 1) else t := by
  induction n with
  | zero => rw [if_neg (by omega)]; rfl
  | succ n ih =>
    rw [List.range_succ, List.foldl_append, List.foldl_cons, List.foldl_nil, ih]
    by_cases hb : b = n + 1
    · rw [if_pos hb, if_pos (by omega), hb, Nat.add_sub_cancel]
    · rw [if_neg hb]
      exact if_congr (by omega) rfl rfl

theorem select_zero (pos : Nat) : select pos 0 = precompIdentity := by
  simp [select]

theorem select_pos (pos : Nat) {b : Int} (h0 : 0 < b) (h8 : b ≤ 8) :
    select pos b = table pos (b.toNat - 1) := by
  have hb : b.natAbs = b.toNat := by omega
  simp only [select, foldl_visit]
  rw [if_neg (by omega), if_pos (by omega), hb]

theorem select_neg (pos : Nat) {b : Int} (h0 : b < 0) (h8 : -8 ≤ b) :
    select pos b = negPrecomp (table pos ((-b).toNat - 1)) := by
  have hb : b.natAbs = (-b).toNat := by omega
  simp only [select, foldl_visit]
  rw [if_pos h0, if_pos (by omega), hb]

@[simp] theorem negPrecomp_c0 (t : PointReg) : (negPrecomp t).c0 = t.c1 := rfl

@[simp] theorem negPrecomp_c1 (t : PointReg) : (negPrecomp t).c1 = t.c0 := rfl

@[simp] theorem negPrecomp_c2 (t : PointReg) : (negPrecomp t).c2 = fneg t.c2 := rfl

/-- The fourth component of a selection is 0 (42_fixed_base.md R184). -/
theorem select_c3 (pos : Nat) (b : Int) : (select pos b).c3 = 0 := by
  simp only [select, foldl_visit]
  split
  · rfl
  · split <;> rfl

theorem exec_psel (pd : PReg) (pos : Fin 32) {dig : Int} (h : -8 ≤ dig ∧ dig ≤ 8) (s : State) :
    exec (.psel pd pos dig) s = .next (s.setP pd (select pos.val dig)) :=
  if_pos h

/-- Settles O49, by the sign of the digit. -/
theorem pselSelects : Obligations.PselSelects := by
  intro pd pos dig s
  refine ⟨fun hlow hhigh => ⟨select pos.val dig, exec_psel pd pos ⟨hlow, hhigh⟩ s,
    select_form _ _, select_c3 _ _, ?zero, ?positive, ?negative⟩, ?outside⟩
  case zero =>
    rintro rfl
    exact select_zero _
  case positive => exact fun h => select_pos _ h hhigh
  case negative =>
    intro h
    rw [select_neg _ h hlow]
    exact ⟨negPrecomp_c0 _, negPrecomp_c1 _, by rw [negPrecomp_c2, fneg_cast]⟩
  case outside => exact fun h => if_neg (by omega)

/-! ## The point a selection represents -/

/-- The negated record is the record of the negated point (42_fixed_base.md R184). -/
theorem negPrecomp_precomp (a : Affine) : negPrecomp (precomp a.x a.y) = precomp a.neg.x a.neg.y := by
  rw [negPrecomp, precomp, precomp, PointReg.mk.injEq]
  refine ⟨rfl, fsub_eq_fadd_fneg _ _, ?difference, ?product, rfl⟩
  case difference =>
    refine eq_of_cast_eq (fadd_lt _ _) (fsub_lt _ _) ?_
    simp only [Affine.neg, cast_fadd, cast_fsub, cast_fneg, sub_neg_eq_add]
  case product =>
    refine eq_of_cast_eq (fneg_lt _) (fmul_lt _ _) ?_
    simp only [Affine.neg, cast_fneg, cast_fmul, neg_mul, mul_neg]

theorem table_eq_precomp {pos k : Nat} (hpos : pos < 32) (h0 : 0 < k) (h8 : k ≤ 8) :
    table pos (k - 1) =
      precomp (baseTimes (k * 256 ^ pos)).x (baseTimes (k * 256 ^ pos)).y := by
  have hk : Affine.base.times ((k - 1 + 1) * 256 ^ pos) = baseTimes (k * 256 ^ pos) := by
    rw [Nat.sub_add_cancel h0, ← baseTimes_natCast]
    push_cast
    rfl
  exact tableHoldsBaseMultiples pos (k - 1) _ hpos (by omega) hk.symm

/-- A selection is the precomputed record of b 256^pos B (42_fixed_base.md R186). -/
theorem select_eq_precomp {pos : Nat} {b : Int} (hpos : pos < 32) (hb : -8 ≤ b ∧ b ≤ 8) :
    select pos b = precomp (baseTimes (b * 256 ^ pos)).x (baseTimes (b * 256 ^ pos)).y := by
  obtain ⟨hlow, hhigh⟩ := hb
  obtain h | rfl | h := lt_trichotomy b 0
  · have hcast : (((-b).toNat : Nat) : Int) = -b := Int.toNat_of_nonneg (by omega)
    rw [select_neg pos h hlow, table_eq_precomp hpos (by omega) (by omega), hcast, neg_mul,
      negPrecomp_precomp, ← baseTimes_neg, neg_neg]
  · rw [select_zero, zero_mul]
    decide +kernel
  · have hcast : ((b.toNat : Nat) : Int) = b := Int.toNat_of_nonneg h.le
    rw [select_pos pos h hhigh, table_eq_precomp hpos (by omega) (by omega), hcast]

end Sys2Proof.Machine
end

section
/-! PROOFS. The family 42_fixed_base, the recoding (42_fixed_base.md R182, R183): the nibbles are the
scalar's digits in radix 16, and the carry pass keeps their sum while it moves each but the last
into -8..7. -/

namespace Sys2Proof.Machine

variable {l : List Int} {carry : Int}

/-! ## The value of a list of digits -/

/-- The sum of e[i] 16^i (42_fixed_base.md R183). -/
def radix16 (e : List Int) : Int := e.foldr (fun d v => d + 16 * v) 0

@[simp] theorem radix16_nil : radix16 [] = 0 := rfl

@[simp] theorem radix16_cons (d : Int) (e : List Int) : radix16 (d :: e) = d + 16 * radix16 e := rfl

theorem radix16_append (e k : List Int) :
    radix16 (e ++ k) = radix16 e + 16 ^ e.length * radix16 k := by
  induction e with
  | nil => simp
  | cons d e ih =>
    rw [List.cons_append, radix16_cons, ih, radix16_cons, List.length_cons, pow_succ]
    ring

@[simp] theorem digit_cons_zero (d : Int) (e : List Int) : digit (d :: e) 0 = d := rfl

@[simp] theorem digit_cons_succ (d : Int) (e : List Int) (i : Nat) :
    digit (d :: e) (i + 1) = digit e i := rfl

theorem sum_digits_eq_radix16 (e : List Int) :
    ∑ i ∈ Finset.range e.length, digit e i * 16 ^ i = radix16 e := by
  induction e with
  | nil => rfl
  | cons d e ih =>
    rw [List.length_cons, Finset.sum_range_succ', radix16_cons, ← ih, Finset.mul_sum, add_comm]
    congr 1
    · simp
    · refine Finset.sum_congr rfl fun i _ => ?_
      rw [digit_cons_succ, pow_succ]
      ring

/-- Digits 2 pos and 2 pos + 1 share the power 256^pos (42_fixed_base.md R183). -/
theorem sum_digits_by_position (e : List Int) (n : Nat) :
    ∑ pos ∈ Finset.range n,
        (digit e (2 * pos) * 256 ^ pos + digit e (2 * pos + 1) * (16 * 256 ^ pos)) =
      ∑ i ∈ Finset.range (2 * n), digit e i * 16 ^ i := by
  induction n with
  | zero => rfl
  | succ n ih =>
    have hpow : (256 : Int) ^ n = 16 ^ (2 * n) := by rw [pow_mul]; rfl
    rw [Finset.sum_range_succ, ih, Nat.mul_succ, Finset.sum_range_succ, Finset.sum_range_succ, hpow,
      pow_succ]
    ring

/-! ## The nibbles -/

/-- The two nibbles of byte i, low one first (42_fixed_base.md R182). -/
def bytePair (a i : Nat) : List Int :=
  [((byteOf a i % 16 : Nat) : Int), ((byteOf a i / 16 % 16 : Nat) : Int)]

theorem nibbles_eq (a : Nat) : nibbles a = (List.range 32).flatMap (bytePair a) := rfl

theorem length_flatMap_bytePair (a n : Nat) :
    ((List.range n).flatMap (bytePair a)).length = 2 * n := by
  simp [List.length_flatMap, bytePair, Nat.mul_comm]

theorem length_nibbles (a : Nat) : (nibbles a).length = 64 := length_flatMap_bytePair a 32

theorem radix16_bytePair (a i : Nat) : radix16 (bytePair a i) = byteOf a i := by
  have hlt : byteOf a i < 256 := Nat.mod_lt _ (by decide)
  simp only [bytePair, radix16_cons, radix16_nil]
  omega

/-- The nibbles of the first n bytes are the scalar modulo 256^n. -/
theorem radix16_flatMap_bytePair (a n : Nat) :
    radix16 ((List.range n).flatMap (bytePair a)) = (a % 256 ^ n : Nat) := by
  induction n with
  | zero => simp [Nat.mod_one]
  | succ n ih =>
    have hpow : (16 : Int) ^ (2 * n) = 256 ^ n := by rw [pow_mul]; rfl
    rw [List.range_succ, List.flatMap_append, List.flatMap_singleton, radix16_append, ih,
      radix16_bytePair, length_flatMap_bytePair, hpow, Nat.mod_pow_succ, byteOf]
    push_cast
    rfl

theorem radix16_nibbles {a : Nat} (ha : a < 2 ^ 255) : radix16 (nibbles a) = a := by
  rw [nibbles_eq, radix16_flatMap_bytePair, Nat.mod_eq_of_lt (ha.trans (by decide))]

theorem nibbles_range {a : Nat} {x : Int} (hx : x ∈ nibbles a) : 0 ≤ x ∧ x ≤ 15 := by
  obtain ⟨i, -, hi⟩ := List.mem_flatMap.mp hx
  obtain rfl | rfl : x = _ ∨ x = _ := by simpa using hi
  all_goals omega

/-- With bit 255 clear the last nibble is at most 7. -/
theorem digit_nibbles_last {a : Nat} (ha : a < 2 ^ 255) :
    0 ≤ digit (nibbles a) 63 ∧ digit (nibbles a) 63 ≤ 7 := by
  have hlast : digit (nibbles a) 63 = (byteOf a 31 / 16 % 16 : Nat) := rfl
  have hbyte : a / 256 ^ 31 < 128 := Nat.div_lt_of_lt_mul (ha.trans_eq (by decide))
  rw [hlast, byteOf]
  omega

/-! ## The carry pass -/

theorem length_carryPass (l : List Int) (carry : Int) : (carryPass l carry).length = l.length := by
  fun_induction carryPass l carry with
  | case1 => rfl
  | case2 => rfl
  | case3 n m rest carry e out ih => exact congrArg (· + 1) ih

/-- What a digit gives up the next one takes: the sum gains the first carry. -/
theorem radix16_carryPass (hl : l ≠ []) (carry : Int) :
    radix16 (carryPass l carry) = radix16 l + carry := by
  fun_induction carryPass l carry with
  | case1 => exact absurd rfl hl
  | case2 n carry => simp
  | case3 n m rest carry e out ih =>
    rw [radix16_cons, ih (List.cons_ne_nil _ _), radix16_cons (d := n)]
    ring

/-- A nibble and a carry of 0 or 1 leave a carry of 0 or 1. -/
theorem carry_range {n carry : Int} (hn : 0 ≤ n ∧ n ≤ 15) (hc : 0 ≤ carry ∧ carry ≤ 1) :
    0 ≤ (n + carry + 8) / 16 ∧ (n + carry + 8) / 16 ≤ 1 := by
  omega

/-- Every digit but the last leaves the pass in -8..7. -/
theorem digit_carryPass_range (hl : ∀ n ∈ l, 0 ≤ n ∧ n ≤ 15) (hc : 0 ≤ carry ∧ carry ≤ 1) {i : Nat}
    (hi : i + 1 < l.length) : -8 ≤ digit (carryPass l carry) i ∧ digit (carryPass l carry) i ≤ 7 := by
  fun_induction carryPass l carry generalizing i with
  | case1 => exact absurd hi (by simp)
  | case2 => exact absurd hi (by simp)
  | case3 n m rest carry e out ih =>
    obtain ⟨hn, hrest⟩ := List.forall_mem_cons.mp hl
    cases i with
    | zero => rw [digit_cons_zero]; omega
    | succ i => exact ih hrest (carry_range hn hc) (Nat.lt_of_succ_lt_succ hi)

/-- The last digit only receives a carry. -/
theorem digit_carryPass_last (hl : ∀ n ∈ l, 0 ≤ n ∧ n ≤ 15) (hc : 0 ≤ carry ∧ carry ≤ 1) {i : Nat}
    (hi : i + 1 = l.length) :
    digit l i ≤ digit (carryPass l carry) i ∧ digit (carryPass l carry) i ≤ digit l i + 1 := by
  fun_induction carryPass l carry generalizing i with
  | case1 => exact absurd hi (by simp)
  | case2 n carry =>
    obtain rfl : i = 0 := by simpa using hi
    simp only [digit_cons_zero]
    omega
  | case3 n m rest carry e out ih =>
    obtain ⟨hn, hrest⟩ := List.forall_mem_cons.mp hl
    obtain ⟨i, rfl⟩ : ∃ k, i = k + 1 := ⟨rest.length, by simpa using hi⟩
    exact ih hrest (carry_range hn hc) (Nat.succ.inj hi)

/-! ## The recoding -/

theorem length_recode (a : Nat) : (recode a).length = 64 :=
  (length_carryPass _ _).trans (length_nibbles a)

theorem radix16_recode {a : Nat} (ha : a < 2 ^ 255) : radix16 (recode a) = a := by
  have hne : nibbles a ≠ [] := by
    rw [← List.length_pos_iff, length_nibbles]
    decide
  rw [recode, radix16_carryPass hne, add_zero, radix16_nibbles ha]

theorem digit_recode_range (a : Nat) {i : Nat} (hi : i < 63) :
    -8 ≤ digit (recode a) i ∧ digit (recode a) i ≤ 7 :=
  digit_carryPass_range (fun _ => nibbles_range) (by decide) (by rw [length_nibbles]; omega)

theorem digit_recode_last {a : Nat} (ha : a < 2 ^ 255) :
    0 ≤ digit (recode a) 63 ∧ digit (recode a) 63 ≤ 8 := by
  have hnibble := digit_nibbles_last ha
  have hcarry := digit_carryPass_last (l := nibbles a) (carry := 0) (fun _ => nibbles_range)
    (by decide) (length_nibbles a).symm
  rw [recode]
  omega

/-- The sum of the weighted digits, position by position (42_fixed_base.md R183). -/
theorem sum_recode_by_position {a : Nat} (ha : a < 2 ^ 255) :
    ∑ pos ∈ Finset.range 32, (digit (recode a) (2 * pos) * 256 ^ pos +
      digit (recode a) (2 * pos + 1) * (16 * 256 ^ pos)) = a := by
  have hsum := sum_digits_eq_radix16 (recode a)
  rw [length_recode, radix16_recode ha] at hsum
  rw [sum_digits_by_position, hsum]

/-- The scalar as R187 sums it: sixteen times the odd digits, then the even ones. -/
theorem sum_recode_by_pass {a : Nat} (ha : a < 2 ^ 255) :
    16 * (∑ pos ∈ Finset.range 32, digit (recode a) (2 * pos + 1) * 256 ^ pos) +
      ∑ pos ∈ Finset.range 32, digit (recode a) (2 * pos) * 256 ^ pos = a := by
  rw [← sum_recode_by_position ha, Finset.sum_add_distrib, add_comm, Finset.mul_sum]
  simp only [mul_left_comm (16 : Int)]

/-- Settles O56: the sum and the ranges of the digits the carry pass leaves. -/
theorem recodingRepresentsTheScalar : Obligations.RecodingRepresentsTheScalar := by
  refine ⟨fun a ha => ?_, by decide +kernel⟩
  obtain ⟨hlow, hhigh⟩ := digit_recode_last ha
  refine ⟨length_recode a, fun i hi => digit_recode_range a hi, hlow, hhigh, ?sum,
    sum_recode_by_position ha⟩
  rw [← radix16_recode ha, ← sum_digits_eq_radix16, length_recode]

end Sys2Proof.Machine
end

section
/-! PROOFS. The family 42_fixed_base, the engine: SMULB's value is the multiple its digits sum to
(42_fixed_base.md R189), and it is what the command sequence of R187 leaves in P[1]. -/

namespace Sys2Proof.Machine

variable {s : State} {a b v u w : PointReg} {g : Form} {y z : Int} {e : List Int}

/-! ## Records that represent a multiple of the base point -/

/-- The record is a valid one of form g and represents z B (41_group.md R142). -/
def PointReg.Represents (a : PointReg) (g : Form) (z : Int) : Prop :=
  a.form = g ∧ a.valid ∧ a.aff = baseTimes z

theorem identityP3_represents : identityP3.Represents .P3 0 := ⟨rfl, identityP3_valid_aff⟩

theorem dbl_represents (ha : a.Represents g z) (hg : g = .P2 ∨ g = .P3) :
    (dbl a).Represents .P1P1 (2 * z) := by
  obtain ⟨rfl, hv, haff⟩ := ha
  obtain ⟨hdv, hda⟩ := dbl_valid_aff hv hg
  exact ⟨rfl, hdv, by rw [hda, haff, two_mul, baseTimes_add]⟩

theorem toP2_form (a : PointReg) : (toP2 a).form = .P2 := by
  rw [toP2]
  split <;> rfl

theorem toP2_represents (ha : a.Represents .P1P1 z) : (toP2 a).Represents .P2 z := by
  obtain ⟨hf, hv, haff⟩ := ha
  obtain ⟨htv, hta⟩ := toP2_valid_aff hv (.inl hf)
  exact ⟨toP2_form a, htv, hta.trans haff⟩

theorem toP3_represents (ha : a.Represents .P1P1 z) : (toP3 a).Represents .P3 z := by
  obtain ⟨hf, hv, haff⟩ := ha
  obtain ⟨htv, hta⟩ := toP3_valid_aff hv hf
  exact ⟨rfl, htv, hta.trans haff⟩

theorem mAdd_represents (ha : a.Represents .P3 y) (hb : b.Represents .PRECOMP z) :
    (mAdd a b).Represents .P1P1 (y + z) := by
  obtain ⟨hfa, hva, haa⟩ := ha
  obtain ⟨hfb, hvb, hab⟩ := hb
  obtain ⟨hv, haff⟩ := mAdd_valid_aff hva hfa hvb hfb
  exact ⟨rfl, hv, by rw [haff, haa, hab, baseTimes_add]⟩

/-- A selection represents its digit times the weight of its position (42_fixed_base.md R186). -/
theorem select_represents {pos : Nat} {d : Int} (hpos : pos < 32) (hd : -8 ≤ d ∧ d ≤ 8) :
    (select pos d).Represents .PRECOMP (d * 256 ^ pos) := by
  rw [select_eq_precomp hpos hd]
  exact ⟨rfl, precomp_valid_aff (baseTimes_onCurve _)⟩

/-! ## The engine's value -/

theorem timesSixteen_represents (ha : a.Represents .P3 z) :
    (timesSixteen a).Represents .P3 (16 * z) := by
  have h2 := toP2_represents (dbl_represents ha (.inr rfl))
  have h4 := toP2_represents (dbl_represents h2 (.inl rfl))
  have h8 := toP2_represents (dbl_represents h4 (.inl rfl))
  have h16 := toP3_represents (dbl_represents h8 (.inl rfl))
  have hz : 2 * (2 * (2 * (2 * z))) = 16 * z := by ring
  exact hz ▸ h16

/-- A pass adds its digits, each at the weight of its position. -/
theorem accumulate_represents {offset : Nat} (ha : a.Represents .P3 z)
    (hd : ∀ pos < 32, -8 ≤ digit e (2 * pos + offset) ∧ digit e (2 * pos + offset) ≤ 8) :
    (accumulate offset e a).Represents .P3
      (z + ∑ pos ∈ Finset.range 32, digit e (2 * pos + offset) * 256 ^ pos) := by
  suffices h : ∀ n ≤ 32, ((List.range n).foldl
      (fun h pos => toP3 (mAdd h (select pos (digit e (2 * pos + offset))))) a).Represents .P3
        (z + ∑ pos ∈ Finset.range n, digit e (2 * pos + offset) * 256 ^ pos) from h 32 le_rfl
  intro n hn
  induction n with
  | zero => simpa using ha
  | succ n ih =>
    rw [List.range_succ, List.foldl_append, Finset.sum_range_succ, ← add_assoc]
    exact toP3_represents (mAdd_represents (ih (by omega)) (select_represents hn (hd n hn)))

theorem digit_recode_legal {n : Nat} (hn : n < 2 ^ 255) {i : Nat} (hi : i < 64) :
    -8 ≤ digit (recode n) i ∧ digit (recode n) i ≤ 8 := by
  obtain h | rfl : i < 63 ∨ i = 63 := by omega
  · have := digit_recode_range n h
    omega
  · have := digit_recode_last hn
    omega

/-- FixedBase(n) is a valid P3 record of n B (42_fixed_base.md R189). -/
theorem fixedBase_represents {n : Nat} (hn : n < 2 ^ 255) : (fixedBase n).Represents .P3 n := by
  have hodd := accumulate_represents (offset := 1) identityP3_represents
    fun pos hpos => digit_recode_legal hn (i := 2 * pos + 1) (by omega)
  have heven := accumulate_represents (offset := 0) (timesSixteen_represents hodd)
    fun pos hpos => digit_recode_legal hn (i := 2 * pos + 0) (by omega)
  rw [zero_add] at heven
  exact sum_recode_by_pass hn ▸ heven

/-! ## SMULB -/

theorem exec_smulb (pd : PReg) (h : s.data.getLsbD 255 = false) :
    exec (.smulb pd) s = .next (s.setP pd (fixedBase s.data.toNat)) :=
  if_neg (Bool.eq_false_iff.mp h)

theorem exec_smulb_topBit (pd : PReg) (h : s.data.getLsbD 255 = true) :
    exec (.smulb pd) s = .next (s.recordError .scalar) :=
  if_pos h

/-- Settles O50, by bit 255 of DATA. -/
theorem smulbMultipliesOrRefusesTopBit : Obligations.SmulbMultipliesOrRefusesTopBit :=
  fun pd _ => ⟨exec_smulb pd, exec_smulb_topBit pd⟩

/-- With bit 255 clear the scalar is below 2^255 (42_fixed_base.md R180). -/
theorem scalar_lt (h : s.data.getLsbD 255 = false) : s.data.toNat < 2 ^ 255 :=
  BitVec.toNat_lt_of_msb_false ((BitVec.msb_eq_getLsbD_last _).trans h)

/-- Settles O58: the engine's record represents the multiple, which depends on the scalar modulo L
only. -/
theorem engineMultipliesTheBasePoint : Obligations.EngineMultipliesTheBasePoint := by
  intro pd s h
  obtain ⟨hform, hvalid, haff⟩ := fixedBase_represents (scalar_lt h)
  rw [baseTimes_natCast] at haff
  refine ⟨_, exec_smulb pd h, ?_⟩
  rw [State.setP_getElem_self, base_times_mod_groupOrder]
  exact ⟨hform, hvalid, haff, haff⟩

/-! ## The command sequence -/

/-- From any state with v in P[1] the commands answer one with w in P[1]. -/
def SumBecomes (l : List Instr) (v w : PointReg) : Prop :=
  ∀ s : State, s.p[(1 : PReg)] = v → ∃ t, execAll l s = .next t ∧ t.p[(1 : PReg)] = w

theorem SumBecomes.append {l k : List Instr} (hl : SumBecomes l v u) (hk : SumBecomes k u w) :
    SumBecomes (l ++ k) v w := by
  intro s hs
  obtain ⟨t, ht, hu⟩ := hl s hs
  obtain ⟨r, hr, hw⟩ := hk t hu
  exact ⟨r, (execAll_append ht k).trans hr, hw⟩

/-- One command that writes P[1]. -/
theorem SumBecomes.single {i : Instr}
    (h : ∀ s : State, s.p[(1 : PReg)] = v → exec i s = .next (s.setP 1 w)) : SumBecomes [i] v w :=
  fun s hs => ⟨_, execAll_cons (h s hs) [], s.setP_getElem_self 1 w⟩

theorem pzero_sumBecomes (v : PointReg) : SumBecomes [.pzero 1] v identityP3 :=
  .single fun _ _ => rfl

theorem pdbl_sumBecomes (hv : v.form = .P2 ∨ v.form = .P3) : SumBecomes [.pdbl 1 1] v (dbl v) :=
  .single fun _ hs => by subst hs; exact exec_pdbl 1 hv

theorem ptop2_sumBecomes (hv : v.form = .P1P1) : SumBecomes [.ptop2 1 1] v (toP2 v) :=
  .single fun _ hs => by subst hs; exact exec_ptop2 1 (.inl hv)

theorem ptop3_sumBecomes (hv : v.form = .P1P1) : SumBecomes [.ptop3 1 1] v (toP3 v) :=
  .single fun _ hs => by subst hs; exact exec_ptop3 1 hv

theorem double_sumBecomes (hv : v.form = .P2 ∨ v.form = .P3) :
    SumBecomes [.pdbl 1 1, .ptop2 1 1] v (toP2 (dbl v)) :=
  (pdbl_sumBecomes hv).append (ptop2_sumBecomes rfl)

/-- The four doublings between the passes. -/
theorem timesSixteen_sumBecomes (hv : v.form = .P3) :
    SumBecomes [.pdbl 1 1, .ptop2 1 1, .pdbl 1 1, .ptop2 1 1, .pdbl 1 1, .ptop2 1 1, .pdbl 1 1,
      .ptop3 1 1] v (timesSixteen v) :=
  (double_sumBecomes (.inr hv)).append <| (double_sumBecomes (.inl (toP2_form _))).append <|
    (double_sumBecomes (.inl (toP2_form _))).append <|
      (pdbl_sumBecomes (.inl (toP2_form _))).append (ptop3_sumBecomes rfl)

/-- The three commands that select a digit and add it. -/
theorem addSelected_sumBecomes (pos : Fin 32) {d : Int} (hd : -8 ≤ d ∧ d ≤ 8) (hv : v.form = .P3) :
    SumBecomes [.psel 2 pos d, .pmadd 1 1 2, .ptop3 1 1] v
      (toP3 (mAdd v (select pos.val d))) := by
  rintro s rfl
  exact ⟨addSelected pos d s, execAll_addSelected pos hd hv [], addSelected_sum pos d s⟩

theorem accumulate_form (offset : Nat) (e : List Int) (hv : v.form = .P3) :
    (accumulate offset e v).form = .P3 :=
  List.foldlRecOn (motive := fun (h : PointReg) => h.form = .P3) _ _ hv fun _ _ _ _ => rfl

/-- A pass as commands, by induction on its positions. -/
theorem passProgram_sumBecomes {offset : Nat}
    (hd : ∀ pos < 32, -8 ≤ digit e (2 * pos + offset) ∧ digit e (2 * pos + offset) ≤ 8)
    (hv : v.form = .P3) : SumBecomes (passProgram offset e) v (accumulate offset e v) := by
  rw [accumulate, ← List.map_coe_finRange_eq_range, List.foldl_map, passProgram]
  induction List.finRange 32 generalizing v with
  | nil => exact fun s hs => ⟨s, rfl, hs⟩
  | cons pos l ih =>
    rw [List.flatMap_cons, List.foldl_cons]
    exact (addSelected_sumBecomes pos (hd pos pos.isLt) hv).append (ih rfl)

/-- The engine's commands leave FixedBase(n) in P[1] (42_fixed_base.md R187). -/
theorem engineProgram_sumBecomes {n : Nat} (hn : n < 2 ^ 255) (v : PointReg) :
    SumBecomes (engineProgram (recode n)) v (fixedBase n) := by
  have hodd := passProgram_sumBecomes (offset := 1) (v := identityP3)
    (fun pos hpos => digit_recode_legal hn (i := 2 * pos + 1) (by omega)) rfl
  have heven := passProgram_sumBecomes (offset := 0)
    (v := timesSixteen (accumulate 1 (recode n) identityP3))
    (fun pos hpos => digit_recode_legal hn (i := 2 * pos + 0) (by omega)) rfl
  exact (((pzero_sumBecomes v).append hodd).append
    (timesSixteen_sumBecomes (accumulate_form _ _ rfl))).append heven

/-- Settles O60: what the commands leave in P[1] is what SMULB writes. -/
theorem smulbRunsItsSequence : Obligations.SmulbRunsItsSequence := by
  intro pd s h
  obtain ⟨t, ht, hsum⟩ := engineProgram_sumBecomes (scalar_lt h) _ s rfl
  obtain ⟨hform, -⟩ := fixedBase_represents (scalar_lt h)
  exact ⟨t, ht, hsum ▸ hform, hsum ▸ exec_smulb pd h⟩

end Sys2Proof.Machine
end

section
/-! PROOFS. The family 43_control: NOP and SETCF, and the Complete step around NOP
(43_control.md R200, R201, 20_memory.md R66). -/

namespace Sys2Proof.Machine

variable {s : State} {rest : List Move}

@[simp] theorem exec_nop (s : State) : exec .nop s = .next s := rfl

@[simp] theorem exec_setcf (v : Bool) (s : State) : exec (.setcf v) s = .next (s.setCF v) := rfl

/-- The word 0 is NOP's (43_control.md R200). -/
theorem decode_zero : decode 0x00000000#32 = .ok .nop := decode_encode (i := .nop) rfl

/-- The Complete step of the word 0 only ends the command. -/
theorem step_nop (h : s.coreNext rest) (hb : s.busy = true) (hp : s.pending = 0x00000000#32) :
    step s = .next (State.finish { s with moves := rest }) :=
  step_command h hb (hp ▸ decode_zero) (exec_nop _)

/-- Settles O30: the two commands' effects, and the step on NOP's word. -/
theorem controlCommandsComplete : Obligations.ControlCommandsComplete :=
  ⟨exec_nop, fun _ _ h hb hp => step_nop h hb hp, exec_setcf⟩

end Sys2Proof.Machine
end

section
/-! PROOFS. The family 60_exceptions: the end of every command, the errors and their precision, and the
signals the host sees: IE, DONE, ERR and IRQ (60_exceptions.md R211, R212, R216, R220, R221). -/

namespace Sys2Proof.Machine

variable {i : Instr} {s t : State} {rest : List Move} {c : ErrorCode}

/-! ## The end of a command (R211) and a write while busy (R212) -/

/-- Whatever the word, Complete answers a state in which the command is finished. -/
theorem complete_finishes (s : State) : ∃ t : State, complete s = .next t.finish := by
  cases hd : decode s.pending with
  | error e => exact ⟨_, complete_error hd⟩
  | ok i =>
    obtain ⟨t, ht, -⟩ := exec_effect i s
    exact ⟨t, by rw [complete_ok hd, ht, finishResult_next]⟩

/-- A host write of CMD or DATAk while busy is discarded: it records E_BUSY only. -/
theorem step_write_busy {off : Nat} {v : Word} (hb : s.busy = true)
    (h : s.hostNext off (.write v) rest)
    (hoff : off ∈ [0x0C, 0x20, 0x24, 0x28, 0x2C, 0x30, 0x34, 0x38, 0x3C]) :
    step s = .next (State.recordError { s with moves := rest } .busy) := by
  obtain rfl | hdata := List.mem_cons.mp hoff
  · obtain ⟨-, hcmd, -⟩ := cmdWriteAcceptsOrRecordsBusy s rest v
    exact hcmd h hb
  · have hword : ∀ o ∈ [0x20, 0x24, 0x28, 0x2C, 0x30, 0x34, 0x38, 0x3C],
        ∃ k : Fin 8, o = 0x20 + 4 * k.val := by decide
    obtain ⟨k, rfl⟩ := hword off hdata
    obtain ⟨-, -, hwrite, -⟩ := dataWordsReadAndWrite s rest k
    exact hwrite v h hb

/-- Settles O8: Complete finishes the command, and a write while busy only records its error. -/
theorem completeClearsBusyAndSetsDone : Obligations.CompleteClearsBusyAndSetsDone := by
  refine ⟨fun s rest h hb => ?_, fun s rest off v hb h hoff => ⟨_, step_write_busy hb h hoff, rfl, hb⟩⟩
  obtain ⟨t, ht⟩ := complete_finishes { s with moves := rest }
  refine ⟨t.finish, ?_, rfl, rfl⟩
  rw [step_coreNext h, coreTurn_busy (s := { s with moves := rest }) hb, ht]

/-! ## Commands under any error status (R212, R216) -/

/-- The state with ERR and ERRCODE as given, whatever they were. -/
def State.withStatus (s : State) (b : Bool) (e : Byte) : State := { s with err := b, errcode := e }

@[simp] theorem State.withStatus_getF (s : State) (b : Bool) (e : Byte) (r : FReg) :
    (s.withStatus b e).getF r = s.getF r := rfl

@[simp] theorem State.withStatus_data (s : State) (b : Bool) (e : Byte) :
    (s.withStatus b e).data = s.data := rfl

/-- Which error a command raises does not depend on the error status. -/
@[simp] theorem raises_withStatus (i : Instr) (s : State) (b : Bool) (e : Byte) :
    raises (s.withStatus b e) i = raises s i :=
  raises_congr i (fun _ => rfl) rfl

/-- A command that raises no error does the same under any error status, and leaves the status. -/
theorem exec_withStatus (h : raises s i = none) (b : Bool) (e : Byte) :
    ∃ t, exec i s = .next t ∧ exec i (s.withStatus b e) = .next (t.withStatus b e) := by
  cases i with
  | pdbl | padd | pmadd | ptop2 | ptop3 | ptocached | penc =>
    exact ⟨_, withForm_of_formError_none h, withForm_of_formError_none h⟩
  | psel pd pos dig =>
    have hdig : -8 ≤ dig ∧ dig ≤ 8 := by simpa [raises] using h
    exact ⟨_, exec_psel pd pos hdig _, exec_psel pd pos hdig _⟩
  | smulb pd =>
    have htop : s.data.getLsbD 255 = false := by simpa [raises, scalarTopBit] using h
    exact ⟨_, exec_smulb pd htop, exec_smulb (s := s.withStatus b e) pd htop⟩
  | fsqrtr fd fa fb =>
    simp only [exec, execFsqrtr, State.withStatus_getF]
    cases sqrtRatio (s.getF fa) (s.getF fb) <;> exact ⟨_, rfl, rfl⟩
  | fcmov | pcmov =>
    by_cases hcf : s.cf = true
    · exact ⟨_, congrArg Host.Outcome.next (if_pos hcf), congrArg Host.Outcome.next (if_pos hcf)⟩
    · exact ⟨_, congrArg Host.Outcome.next (if_neg hcf), congrArg Host.Outcome.next (if_neg hcf)⟩
  | pdec pd mode =>
    simp only [exec, execPdec, State.withStatus_data]
    cases decodePoint mode s.data <;> exact ⟨_, rfl, rfl⟩
  | _ => exact ⟨_, rfl, rfl⟩

/-- A command raises one of the codes E_ILLEGAL, E_FORM and E_SCALAR: E_BUSY is the host's. -/
theorem toByte_mem_of_raises (h : raises s i = some c) :
    c.toByte ∈ [0x02#8, 0x03#8, 0x04#8] := by
  cases c with
  | busy => cases i <;> simp [raises, formError] at h
  | illegal | form | scalar => decide

/-- Settles O15: a command that raises an error answers it alone, under any status; one that raises
none acts by `exec_withStatus`. -/
theorem errorsArePrecise : Obligations.ErrorsArePrecise := by
  refine ⟨fun i s => ?_, fun s rest off v hb h hoff => step_write_busy hb h hoff⟩
  cases hr : raises (s.withStatus false 0x00#8) i with
  | none =>
    obtain ⟨t, ht, hs⟩ := exec_withStatus hr s.err s.errcode
    obtain ⟨herr, hcode⟩ := exec_status_of_not_raises hr ht
    exact ⟨t, ht, .inl ⟨herr, hcode, hs⟩⟩
  | some c =>
    refine ⟨_, exec_of_raises hr, .inr ⟨c.toByte, toByte_mem_of_raises hr, rfl, ?_⟩⟩
    exact exec_of_raises ((raises_withStatus i s _ _).symm.trans hr)

/-! ## The interrupt request (R220, R221) -/

theorem State.irq_eq_true_iff : s.irq = true ↔ s.ie = true ∧ (s.done = true ∨ s.err = true) := by
  simp [State.irq]

theorem State.irq_eq_false_iff : s.irq = false ↔ (s.ie = true → s.done = false ∧ s.err = false) := by
  simp [State.irq]

/-- When an input sees a request of the block (log 14). -/
theorem State.hostRequest_eq_some_iff {n q : Nat} :
    s.hostRequest n = some q ↔
      n = Config.coreIrq ∧ q = Config.coreIrqPriority ∧ Config.coreIrqMasked = false ∧
        s.irq = true := by
  simp only [State.hostRequest, State.hostInterrupt, Option.ite_none_right_eq_some, Bool.and_eq_true,
    beq_iff_eq, Bool.not_eq_true', Option.some.injEq]
  constructor
  · rintro ⟨⟨⟨hn, hirq⟩, hmask⟩, hq⟩
    exact ⟨hn, hq.symm, hmask, hirq⟩
  · rintro ⟨hn, hq, hmask, hirq⟩
    exact ⟨⟨⟨hn, hirq⟩, hmask⟩, hq.symm⟩

/-- Settles O59: with IE = 0 there is no IRQ to pass on, and STATUS reads DONE all the same. -/
theorem interruptReachesTheHostUnlessMasked : Obligations.InterruptReachesTheHostUnlessMasked := by
  refine ⟨fun _ _ _ => State.hostRequest_eq_some_iff, fun s rest hie => ⟨fun n => ?_, fun h => ?_⟩⟩
  · refine Option.eq_none_iff_forall_ne_some.mpr fun q hq => ?_
    obtain ⟨-, -, -, hirq⟩ := State.hostRequest_eq_some_iff.mp hq
    simp [State.irq, hie] at hirq
  · exact ⟨statusWord s, step_status h, statusWord_done s⟩

/-! ## What a step does to IE, DONE and ERR (R216, R220) -/

/-- From s to t, IE is kept, and neither DONE nor ERR is cleared. -/
def State.KeepsSignals (s t : State) : Prop :=
  t.ie = s.ie ∧ (s.done = true → t.done = true) ∧ (s.err = true → t.err = true)

/-- A command writes ERR by recording an error only. -/
theorem Effect.keepsSignals (h : Effect i s t) : s.KeepsSignals t := by
  obtain ⟨-, -, hie, hdone, -⟩ := h.handshake_frame
  refine ⟨hie, hdone.trans, ?_⟩
  cases h with
  | nothing | field | fieldFlag | point | pointFlag | flag | data => exact id
  | error => exact fun _ => rfl

/-- The end of a command sets DONE. -/
theorem State.KeepsSignals.finish (h : s.KeepsSignals t) : s.KeepsSignals t.finish := by
  obtain ⟨hie, -, herr⟩ := h
  exact ⟨hie, fun _ => rfl, herr⟩

theorem State.keepsSignals_recordError (s : State) (c : ErrorCode) :
    s.KeepsSignals (s.recordError c) :=
  ⟨rfl, id, fun _ => rfl⟩

theorem readReg_keepsSignals (r : WindowReg) (s : State) : s.KeepsSignals (readReg r s) := by
  obtain ⟨⟨-, -, -, -, -, -, hie, hdone, herr, -⟩, -⟩ := readReg_sameBlock r s
  exact ⟨hie, hdone.trans, herr.trans⟩

/-- Of the registers, only CTRL and STATUS let a write clear a signal (10_state.md R32 to R36). -/
theorem writeReg_keepsSignals {r : WindowReg} (hctrl : r ≠ .ctrl) (hstatus : r ≠ .status) (v : Word)
    (s : State) : s.KeepsSignals (writeReg r v s) := by
  cases r with
  | ctrl => exact absurd rfl hctrl
  | status => exact absurd rfl hstatus
  | id | reserved => exact ⟨rfl, id, id⟩
  | cmd =>
    simp only [writeReg, writeCmd]
    split
    · exact s.keepsSignals_recordError .busy
    · exact ⟨rfl, id, id⟩
  | data k =>
    simp only [writeReg, writeData]
    split
    · exact s.keepsSignals_recordError .busy
    · exact ⟨rfl, id, id⟩

theorem off_of_windowReg_status {off : Nat} (ha : off % 4 = 0)
    (hr : windowReg (off / 4) = some .status) : off = 0x08 := by
  have h : off / 4 = 2 := windowReg_off hr
  omega

/-- A step keeps the signals, but for a hard reset and a host write of CTRL or STATUS. -/
theorem step_signals (ht : step s = .next t) :
    s.KeepsSignals t ∨
      (∃ rest, s.moves = .hardReset :: rest ∧ t = State.zeroise { s with moves := rest }) ∨
      (∃ (v : Word) (rest : List Move), s.hostNext 0x04 (.write v) rest ∧
        t = writeCtrl v { s with moves := rest }) ∨
      ∃ (v : Word) (rest : List Move), s.hostNext 0x08 (.write v) rest ∧
        t = writeStatus v { s with moves := rest } := by
  cases step_cases ht with
  | idle => exact .inl ⟨rfl, id, id⟩
  | command _ _ _ hu =>
    exact .inl (State.KeepsSignals.finish (s := s) (exec_cases hu).keepsSignals)
  | @illegal rest =>
    exact .inl (State.KeepsSignals.finish (s := s)
      (State.keepsSignals_recordError { s with moves := rest } .illegal))
  | @reset rest h => exact .inr (.inl ⟨rest, h, rfl⟩)
  | @access rest a r h ha hr =>
    obtain ⟨off, bytes, kind⟩ := a
    obtain ⟨-, rfl, halign⟩ := ha
    cases kind with
    | read => exact .inl (readReg_keepsSignals r { s with moves := rest })
    | write v =>
      by_cases hctrl : r = .ctrl
      · subst hctrl
        obtain rfl := off_of_windowReg_ctrl halign hr
        exact .inr (.inr (.inl ⟨v, rest, h, rfl⟩))
      · by_cases hstatus : r = .status
        · subst hstatus
          obtain rfl := off_of_windowReg_status halign hr
          exact .inr (.inr (.inr ⟨v, rest, h, rfl⟩))
        · exact .inl (writeReg_keepsSignals hctrl hstatus v { s with moves := rest })

/-- While the signals are kept, IRQ does not fall. -/
theorem State.KeepsSignals.irq (h : s.KeepsSignals t) (hs : s.irq = true) : t.irq = true := by
  obtain ⟨hie, hdone, herr⟩ := h
  obtain ⟨hsie, hset⟩ := State.irq_eq_true_iff.mp hs
  exact State.irq_eq_true_iff.mpr ⟨hie.trans hsie, hset.imp hdone herr⟩

/-- A write of CTRL leaves IRQ at 1 unless it leaves IE at 0: a soft reset clears IE, and any other
write leaves DONE and ERR. -/
theorem writeCtrl_ie_of_irq_falls {v : Word} (hs : s.irq = true) (ht : (writeCtrl v s).irq = false) :
    (writeCtrl v s).ie = false := by
  cases hv : v.getLsbD 1 with
  | true => rw [writeCtrl_reset hv, State.zeroise_ie]
  | false =>
    rw [writeCtrl_enable hv] at ht ⊢
    obtain ⟨-, hset⟩ := State.irq_eq_true_iff.mp hs
    exact Bool.eq_false_iff.mpr fun hie =>
      Bool.eq_false_iff.mp ht (State.irq_eq_true_iff.mpr ⟨hie, hset⟩)

/-- A write of STATUS does not write IE. -/
@[simp] theorem writeStatus_ie (v : Word) (s : State) : (writeStatus v s).ie = s.ie := by
  rw [writeStatus_eq]

/-- If IRQ rises with IE = 1 before, DONE or ERR was set. -/
theorem State.signal_set_of_irq_rises (hie : s.ie = true) (hs : s.irq = false) (ht : t.irq = true) :
    (s.done = false ∧ t.done = true) ∨ (s.err = false ∧ t.err = true) := by
  obtain ⟨hdone, herr⟩ := State.irq_eq_false_iff.mp hs hie
  obtain ⟨-, hset⟩ := State.irq_eq_true_iff.mp ht
  exact hset.imp (⟨hdone, ·⟩) (⟨herr, ·⟩)

/-- Only a host write of CTRL sets IE. -/
theorem step_sets_ie (ht : step s = .next t) (hs : s.ie = false) (hie : t.ie = true) :
    ∃ (v : Word) (rest : List Move), s.hostNext 0x04 (.write v) rest := by
  obtain ⟨hkept, -, -⟩ | ⟨rest, -, rfl⟩ | ⟨v, rest, h, -⟩ | ⟨v, rest, -, rfl⟩ := step_signals ht
  · simp [hkept, hs] at hie
  · cases hie
  · exact ⟨v, rest, h⟩
  · simp [hs] at hie

/-- Settles O28: the rise by whether IE was set, the fall by the step's kind. -/
theorem irqRisesAndFallsOnlyAsStated : Obligations.IrqRisesAndFallsOnlyAsStated := by
  refine ⟨fun _ => rfl, fun s t ht hs hirq => ?rise, fun s t ht hs hirq => ?fall⟩
  case rise =>
    obtain ⟨hie, -⟩ := State.irq_eq_true_iff.mp hirq
    cases hsie : s.ie with
    | true => exact .inl ⟨rfl, State.signal_set_of_irq_rises hsie hs hirq⟩
    | false => exact .inr ⟨rfl, step_sets_ie ht hsie hie⟩
  case fall =>
    obtain hkept | ⟨rest, h, -⟩ | ⟨v, rest, h, rfl⟩ | ⟨v, rest, h, rfl⟩ := step_signals ht
    · simp [hkept.irq hs] at hirq
    · exact .inl ⟨rest, h⟩
    · exact .inr (.inl ⟨v, rest, h, writeCtrl_ie_of_irq_falls (s := { s with moves := rest }) hs hirq⟩)
    · obtain ⟨hie, -⟩ := State.irq_eq_true_iff.mp hs
      exact .inr (.inr ⟨v, rest, h, State.irq_eq_false_iff.mp hirq (by rw [writeStatus_ie, hie])⟩)

/-- Settles O29: of the steps that may clear a signal, those that clear ERR; and `exec_withStatus`. -/
theorem errIsStickyAndStopsNothing : Obligations.ErrIsStickyAndStopsNothing := by
  refine ⟨fun s t ht hs herr => ?_, fun i s b e => ?_⟩
  · obtain ⟨-, -, hkept⟩ | ⟨rest, h, -⟩ | ⟨v, rest, h, rfl⟩ | ⟨v, rest, h, rfl⟩ := step_signals ht
    · simp [hkept hs] at herr
    · exact .inr (.inr ⟨rest, h⟩)
    · refine .inr (.inl ⟨v, rest, h, ?_⟩)
      by_contra hv
      rw [writeCtrl_enable (Bool.eq_false_iff.mpr hv)] at herr
      simp [hs] at herr
    · rw [writeStatus_eq] at herr
      exact .inl ⟨v, rest, h, by simpa [hs] using herr⟩
  · cases hr : raises s i with
    | none =>
      obtain ⟨t, ht, hu⟩ := exec_withStatus hr b e
      exact ⟨t, _, ht, hu, rfl, rfl, rfl, rfl⟩
    | some c =>
      exact ⟨_, _, exec_of_raises hr, exec_of_raises ((raises_withStatus i s b e).trans hr),
        rfl, rfl, rfl, rfl⟩

end Sys2Proof.Machine
end

section
/-! PROOFS. The family 70_reset_and_hazards: soft reset and hard reset are one state change (R242). -/

namespace Sys2Proof.Machine

variable {s : State} {rest : List Move}

/-- A write of CTRL with SRST = 1 is `zeroise`, the state change of a hard reset (`step_hardReset`). -/
theorem step_softReset {v : Word} (h : s.hostNext 0x04 (.write v) rest) (hv : v.getLsbD 1 = true) :
    step s = .next (State.zeroise { s with moves := rest }) := by
  rw [step_ctrl h]
  exact congrArg _ (writeCtrl_reset hv _)

/-- STATUS shows fields that a reset writes, and no others (10_state.md R33). -/
@[simp] theorem statusWord_zeroise (s : State) : statusWord s.zeroise = 0x00000000#32 := by
  have hreset : statusWord State.reset = 0x00000000#32 := by decide
  exact hreset

/-- Settles O25: both resets step to `zeroise`, and what it leaves is idle. -/
theorem softResetAbandonsTheCommand : Obligations.SoftResetAbandonsTheCommand := by
  intro s rest v h hv
  exact ⟨State.zeroise { s with moves := rest }, step_softReset h hv, step_hardReset rfl,
    State.zeroise_holdsResetValues _, statusWord_zeroise _, rfl, coreTurn_idle (State.zeroise_busy _)⟩

end Sys2Proof.Machine
end
